-- ==== Sys2Proof/Word.lean ====
section
/-! DEFINITION. The plain words of the block.

A slot index, an element count and a storage element are plain natural numbers. Indices and counts are exact naturals
(R13), below `C` wherever the block holds one (R24, R30): no cut to IW bits is ever needed (DEDUCED, log entry 4). An element
is a W-bit value the block never interprets (R8); W is a parameter, so it is a natural number, below `2 ^ W` wherever the
block holds one (DESIGN CHOICE, log entry 3). -/

namespace Sys2Proof

/-- The 8-bit command word `cmd` (R80). -/
abbrev CmdWord := BitVec 8

/-- The 4-bit iterator context number `cmd[7:4]` (R84). -/
abbrev CtxNum := BitVec 4

end Sys2Proof
end

