-- ==== Sys2Proof/Config.lean ====
section
/-! DEFINITION. The configuration tuple of the block (R3), the reasons a configuration is refused (R210), and the
one parameter no rule reads. -/

namespace Sys2Proof

/-- The configuration tuple (R3, R34): fixed when the block is built, never changed while it exists. -/
structure Config where
  /-- CAPACITY, `C` (R4) -/
  capacity : Nat
  /-- DATA_WIDTH, `W` (R8) -/
  dataWidth : Nat
  /-- THREAD_SAFE (R3) -/
  threadSafe : Bool
  /-- OVERWRITE_ON_FULL (R3) -/
  overwriteOnFull : Bool
  /-- N_ITER (R9) -/
  nIter : Nat
  deriving DecidableEq, Repr

/-- Why a configuration is refused and never elaborated (R210). -/
inductive BadConfig where
  /-- `C = 0`: the source's InvalidCapacity (R4, R201) -/
  | invalidCapacity
  /-- `W < 1` (R8) -/
  | invalidDataWidth
  /-- `N_ITER` outside `1 .. 16` (R9) -/
  | invalidIterCount
  /-- THREAD_SAFE = 1 together with OVERWRITE_ON_FULL = 1 (R5) -/
  | threadSafeWithOverwrite
  deriving DecidableEq, Repr

/-- The configuration of `State.reset`: the conventions of 95_test_vectors.md with `C = 8`, a power of two (R10).
DESIGN CHOICE (log entry 2), unsafe: the spec leaves every parameter open. -/
def Config.standard : Config :=
  { capacity := 8, dataWidth := 8, threadSafe := false, overwriteOnFull := false, nIter := 4 }

/-- LATENCY, the clock cycles from acceptance to response (R11): a parameter that no rule and no definition of the
model reads (log entry 15). -/
opaque Config.latency : Nat

end Sys2Proof
end

