-- ==== Sys2Proof/Syntax.lean ====
section
/-! DEFINITION. The ten commands of the sync_fifo command set, revision 1 (R2, R82), the ports they arrive on (R59)
and the raw command a port holds (R80). -/

namespace Sys2Proof

/-- A port of the block (R59): `main` when THREAD_SAFE = 0, `prod` and `cons` when THREAD_SAFE = 1. -/
inductive PortId where
  | main | prod | cons
  deriving DecidableEq, Repr

/-- The two ends of the buffer, one port each when THREAD_SAFE = 1 (R59). -/
inductive Side where
  | producer | consumer
  deriving DecidableEq, Repr

/-- One command as the decoder reads it, one constructor per row of the opcode map (R82). Fields that a command
ignores (R84, R85) are not held. -/
inductive Instr where
  | nop
  | push (v : Nat)
  | pop
  | peek
  | clear
  | isEmpty
  | isFull
  | len
  | iterCreate (k : CtxNum)
  | iterNext (k : CtxNum)
  deriving DecidableEq, Repr

/-- The raw pair a host presents and a port holds (R80, R94): the command word and the data operand. -/
structure Command where
  cmd : CmdWord
  data : Nat
  deriving DecidableEq, Repr

end Sys2Proof
end

