-- ==== Sys2Proof/WellFormed.lean ====
section
/-! DEFINITION. Which commands a given configuration can carry: the operand fits W bits and the context exists. -/

namespace Sys2Proof

/-- Why a command is not well formed for a configuration. -/
inductive IllFormed where
  /-- PUSH's operand needs more than W bits (R85) -/
  | dataTooWide
  /-- an iterator command names a context `k >= N_ITER` (R84) -/
  | noSuchContext
  deriving DecidableEq, Repr

/-- The first check a command fails, if any. -/
def Instr.illFormed (cfg : Config) (i : Instr) : Option IllFormed :=
  match i with
  | .push v => if v < 2 ^ cfg.dataWidth then none else some .dataTooWide
  | .iterCreate k => if k.toNat < cfg.nIter then none else some .noSuchContext
  | .iterNext k => if k.toNat < cfg.nIter then none else some .noSuchContext
  | .nop => none
  | .pop => none
  | .peek => none
  | .clear => none
  | .isEmpty => none
  | .isFull => none
  | .len => none

/-- A command the configuration can carry. -/
def Instr.wellFormed (cfg : Config) (i : Instr) : Bool :=
  (i.illFormed cfg).isNone

end Sys2Proof
end

