-- ==== Sys2Proof/Decode.lean ====
section
/-! DEFINITION. Command words: fields, decoding, the port permission table, and the encoder (30_encoding.md). -/

namespace Sys2Proof

/-- Why a command word has no command: its `op` is reserved (R83). -/
inductive DecodeError where
  /-- the reserved `op`, 0xA to 0xF -/
  | reservedOp (op : BitVec 4)
  deriving DecidableEq, Repr

/-- `op = cmd[3:0]` (R81). -/
def opField (w : CmdWord) : BitVec 4 := w.extractLsb' 0 4

/-- `iter = cmd[7:4]` (R81). -/
def iterField (w : CmdWord) : CtxNum := w.extractLsb' 4 4

/-- The command word's meaning by the opcode map (R82), with reserved values refused by name (R83). `iter` is read
only for the iterator commands (R84), `cmd_data` only for PUSH, verbatim (R85). -/
def decode (c : Command) : Except DecodeError Instr :=
  match (opField c.cmd).toNat with
  | 0x0 => .ok .nop
  | 0x1 => .ok (.push c.data)
  | 0x2 => .ok .pop
  | 0x3 => .ok .peek
  | 0x4 => .ok .clear
  | 0x5 => .ok .isEmpty
  | 0x6 => .ok .isFull
  | 0x7 => .ok .len
  | 0x8 => .ok (.iterCreate (iterField c.cmd))
  | 0x9 => .ok (.iterNext (iterField c.cmd))
  | _ => .error (.reservedOp (opField c.cmd))

/-- The port permission table (R86). -/
def permitted (p : PortId) (i : Instr) : Bool :=
  match i with
  | .nop => true
  | .push _ => p != .cons
  | .pop => p != .prod
  | .peek => p != .prod
  | .clear => true
  | .isEmpty => true
  | .isFull => true
  | .len => true
  | .iterCreate _ => p != .prod
  | .iterNext _ => p != .prod

/-- The context an iterator command names exists, `k < N_ITER` (R84). Every other command names none. -/
def contextExists (cfg : Config) (i : Instr) : Bool :=
  match i with
  | .iterCreate k => decide (k.toNat < cfg.nIter)
  | .iterNext k => decide (k.toNat < cfg.nIter)
  | .nop => true
  | .push _ => true
  | .pop => true
  | .peek => true
  | .clear => true
  | .isEmpty => true
  | .isFull => true
  | .len => true

/-- The port runs the command and does not answer ILLEGAL: permission and context checks of R87. -/
def admitted (cfg : Config) (p : PortId) (i : Instr) : Bool :=
  permitted p i && contextExists cfg i

/-- `decode(p, cmd, cmd_data)` of R87, whole: `none` is ILLEGAL. The step reaches the same answer in two parts, `decode`
and then the meaning's own admission check. -/
def decodeAt (cfg : Config) (p : PortId) (c : Command) : Option Instr :=
  match decode c with
  | .error _ => none
  | .ok i =>
    if permitted p i then
      if contextExists cfg i then some i else none
    else none

/-- `op` of a command (R82). -/
def opcode (i : Instr) : BitVec 4 :=
  match i with
  | .nop => 0x0#4
  | .push _ => 0x1#4
  | .pop => 0x2#4
  | .peek => 0x3#4
  | .clear => 0x4#4
  | .isEmpty => 0x5#4
  | .isFull => 0x6#4
  | .len => 0x7#4
  | .iterCreate _ => 0x8#4
  | .iterNext _ => 0x9#4

/-- The `iter` field an assembler writes: the context operand, else 0 (R91). -/
def iterOperand (i : Instr) : CtxNum :=
  match i with
  | .iterCreate k => k
  | .iterNext k => k
  | .nop => 0#4
  | .push _ => 0#4
  | .pop => 0#4
  | .peek => 0#4
  | .clear => 0#4
  | .isEmpty => 0#4
  | .isFull => 0#4
  | .len => 0#4

/-- The `cmd_data` an assembler writes: the PUSH operand, else 0 (R91). -/
def dataOperand (i : Instr) : Nat :=
  match i with
  | .push v => v
  | .nop => 0
  | .pop => 0
  | .peek => 0
  | .clear => 0
  | .isEmpty => 0
  | .isFull => 0
  | .len => 0
  | .iterCreate _ => 0
  | .iterNext _ => 0

/-- The one encoding of a command: `cmd = {iter, op}` beside `cmd_data` (R82, R91, R92). -/
def encode (i : Instr) : Command :=
  { cmd := iterOperand i ++ opcode i, data := dataOperand i }

/-- The raw command whose bits are `w`, numbered as spec/opcode_table.json numbers them: bits 7..0 are `cmd`, and the
bits above them, up to `nbits`, are `cmd_data` (all 0 when the table gives 8 bits). Log entry 20. -/
def tableCommand (nbits w : Nat) : Command :=
  { cmd := BitVec.ofNat 8 (w % 2 ^ nbits), data := (w % 2 ^ nbits) / 2 ^ 8 }

/-- The command this decoder reads from a word of the opcode table; `none` where it refuses the word. -/
def decodeTableWord (nbits w : Nat) : Option Instr :=
  match decode (tableCommand nbits w) with
  | .ok i => some i
  | .error _ => none

end Sys2Proof
end

