-- ==== Sys2Proof/Machine/Params.lean ====
section
/-! DEFINITION. What is derived from the configuration: legality (R4, R5, R8, R9), POW2 and WRAP_MASK (R6), IW (R7). -/

namespace Sys2Proof.Machine

/-- The first reason a configuration is refused, if any (R210). -/
def badConfig (cfg : Config) : Option BadConfig :=
  if cfg.capacity = 0 then some .invalidCapacity
  else if cfg.dataWidth = 0 then some .invalidDataWidth
  else if cfg.nIter = 0 ∨ 16 < cfg.nIter then some .invalidIterCount
  else if cfg.threadSafe = true ∧ cfg.overwriteOnFull = true then some .threadSafeWithOverwrite
  else none

/-- POW2: `C = 2 ^ K` for some `K` (R6). -/
def pow2 (cfg : Config) : Bool := cfg.capacity == 2 ^ Nat.log2 cfg.capacity

/-- WRAP_MASK, one optional value: `C - 1` exactly when POW2 holds (R6, R27). -/
def wrapMask (cfg : Config) : Option Nat :=
  if pow2 cfg then some (cfg.capacity - 1) else none

/-- IW, the width of the index registers: `max(1, ceil(log2 C))` (R7). -/
def indexWidth (cfg : Config) : Nat :=
  if cfg.capacity ≤ 2 then 1 else Nat.log2 (cfg.capacity - 1) + 1

end Sys2Proof.Machine
end

