-- ==== Sys2Proof/Machine/State.lean ====
section
/-! DEFINITION. The state of the block as plain data (10_state.md), the outcomes a step can stop with, and the
reset state (R35, R233). -/

namespace Sys2Proof.Machine

/-- The 3-bit status codes 0 to 4, in order (R89). Codes 5 to 7 are never produced, so they have no constructor. -/
inductive Status where
  | ok | bufferFull | bufferEmpty | iterDone | illegal
  deriving DecidableEq, Repr

/-- One response record `(status, data, count, flag)` (R31, R88). A field that is not given is 0 (R90). -/
structure Response where
  status : Status
  data : Nat := 0
  count : Nat := 0
  flag : Bool := false
  deriving DecidableEq, Repr

/-- The locals of the command a port is running (R13, R32): `none` is unset. -/
structure Locals where
  h : Option Nat := none
  t : Option Nat := none
  n : Option Nat := none
  v : Option Nat := none
  deriving DecidableEq, Repr

/-- A port's execution phase (R32): `busy c j l` is BUSY(cmd, j), with the held command (R94), the number of the next
micro-step, and the locals. -/
inductive Phase where
  | idle
  | busy (c : Command) (j : Nat) (l : Locals)
  deriving DecidableEq, Repr

/-- What one port holds: its phase (R32), its response registers and its response log (R31). -/
structure PortState where
  phase : Phase
  rspValid : Bool
  rsp : Response
  log : List Response
  deriving DecidableEq, Repr

/-- An iterator context (R29). -/
structure IterCtx where
  cursor : Nat
  remaining : Nat
  deriving DecidableEq, Repr

/-- What the environment does at one step (R61, R93, R94, R230): the level of `rst`, the end whose port moves, and the
command presented there (`none`: `cmd_valid = 0`). The model's own type, log entry 5. -/
structure Input where
  rst : Bool
  turn : Side
  cmd : Option Command
  deriving DecidableEq, Repr

/-- The storage: (slot index, element) pairs, indices strictly rising. A slot that is not listed holds `⊥`, the unwritten
marker (R21): it has no value. -/
abbrev Memory := List (Nat × Nat)

/-- The model faults, exactly two (R209). -/
inductive ModelFault where
  /-- raised by CLEAR when THREAD_SAFE = 1 and the other port is in flight (R142); safe -/
  | clearRace
  /-- raised by MemRead of a slot that holds `⊥` (R14); safe, and unreachable (R37) -/
  | unwrittenSlotRead
  deriving DecidableEq, Repr

/-- Why a step stops with a fault. -/
inductive Fault where
  /-- raised by `step` in a state that has a model fault recorded, unless `rst = 1`: the run has no meaning from there
  (R209); safe (log entry 9) -/
  | modelFault (f : ModelFault)
  /-- raised by a slot access at an index `>= C`, which no index of the block reaches (R52); safe (log entry 12) -/
  | slotOutOfRange (i : Nat)
  deriving DecidableEq, Repr

/-- Why a step refuses. -/
inductive Refusal where
  /-- an arm of `exec` without a meaning; no arm of this model raises it; safe -/
  | notModelled (mnemonic : String)
  /-- raised by `step` for a configuration that is never elaborated (R210); safe (log entry 10) -/
  | illegalConfiguration (b : BadConfig)
  /-- raised by a THREAD_SAFE = 1 meaning applied to a port that is `IDLE`, or whose micro-step number its command does
  not have; no step of the block does so; safe (log entry 11) -/
  | noMicroStep
  /-- raised by a micro-step that reads a local no earlier micro-step has set; no step of the block does so; safe (log
  entry 11) -/
  | localUnset
  deriving DecidableEq, Repr

/-- What changes as a block runs: the state of the step relation, which takes the configuration tuple as an argument
instead (R3). Everything but `turn` and `inputs` is the spec's own state (10_state.md); those two are the model's form of
the host and of the interleaving (log entry 5). -/
structure BlockState where
  /-- next free slot to write (R22) -/
  head : Nat
  /-- oldest valid element (R23) -/
  tail : Nat
  /-- the storage array (R20, R21) -/
  slots : Memory
  /-- the iterator contexts, number `k` at position `k` (R29) -/
  iters : List IterCtx
  /-- port MAIN, there when THREAD_SAFE = 0 (R59) -/
  main : PortState
  /-- port PROD, there when THREAD_SAFE = 1 (R59) -/
  prod : PortState
  /-- port CONS, there when THREAD_SAFE = 1 (R59) -/
  cons : PortState
  /-- the sticky model fault record (R35, R209) -/
  modelFault : Option ModelFault
  /-- the end whose port moves in the current step (R61) -/
  turn : Side
  /-- what the environment does at the coming steps, first first -/
  inputs : List Input
  deriving DecidableEq, Repr

/-- A block: its state together with the tuple it was built with, which is what the host's interface steps. `step` hands
the tuple to the step relation as its argument, and gives it back as it was (R3, R34; log entry 1). -/
structure State extends BlockState where
  /-- the configuration tuple -/
  cfg : Config
  deriving DecidableEq, Repr

/-- A block state with the tuple of its block. -/
def BlockState.withConfig (b : BlockState) (cfg : Config) : State := { toBlockState := b, cfg := cfg }

/-- A port after reset: `IDLE`, every response field 0, an empty log (R35, R233). -/
def PortState.reset : PortState :=
  { phase := .idle, rspValid := false, rsp := { status := .ok }, log := [] }

/-- `ResetState(cfg)`, the launch premise of every run (R35, R233). -/
def BlockState.resetOf (cfg : Config) : BlockState :=
  { head := 0
    tail := 0
    slots := []
    iters := List.replicate cfg.nIter { cursor := 0, remaining := 0 }
    main := PortState.reset
    prod := PortState.reset
    cons := PortState.reset
    modelFault := none
    turn := .producer
    inputs := [] }

/-- A block of configuration `cfg` in its ResetState. -/
def State.resetOf (cfg : Config) : State := (BlockState.resetOf cfg).withConfig cfg

/-- The machine right after reset, in the configuration of log entry 2. -/
def State.reset : State := State.resetOf Config.standard

end Sys2Proof.Machine
end

