-- ==== Sys2Proof/Machine/Operands.lean ====
section
/-! DEFINITION. Operands: the wrapped increment (R100), reading and writing slots, and the iterator contexts. -/

namespace Sys2Proof.Machine

/-- `advance(i)` (R100): by the wrap mask when it is present, else by the remainder. -/
def advance (cfg : Config) (i : Nat) : Nat :=
  match wrapMask cfg with
  | some m => (i + 1) &&& m
  | none => (i + 1) % cfg.capacity

/-- A slot's content: `none` is `⊥` (R21). -/
def slotAt (m : Memory) (a : Nat) : Option Nat :=
  match m with
  | [] => none
  | (b, v) :: rest => if b = a then some v else slotAt rest a

/-- Set one slot, keeping the indices strictly rising (R14). -/
def setSlot (m : Memory) (a : Nat) (v : Nat) : Memory :=
  match m with
  | [] => [(a, v)]
  | (b, w) :: rest =>
    if a < b then (a, v) :: (b, w) :: rest
    else if a = b then (a, v) :: rest
    else (b, w) :: setSlot rest a v

/-- Every listed index is above `a`, in rising order. -/
def risingFrom (a : Nat) (m : Memory) : Bool :=
  match m with
  | [] => true
  | (b, _) :: rest => decide (a < b) && risingFrom b rest

/-- The canonical form: indices strictly rising. No entry can equal what an unlisted slot reads as, since that is no
value at all. -/
def memoryWf (m : Memory) : Bool :=
  match m with
  | [] => true
  | (a, _) :: rest => risingFrom a rest

/-- A value cut to the W bits of a slot, of `cmd_data` and of `rsp_data` (R8). -/
def fitWidth (cfg : Config) (v : Nat) : Nat := v % 2 ^ cfg.dataWidth

/-- Context `k` (R29). The list has one entry per context, so the default is never met (log entry 19). -/
def iterAt (s : State) (k : CtxNum) : IterCtx :=
  (s.iters[k.toNat]?).getD { cursor := 0, remaining := 0 }

/-- Replace context `k`, and no other (R171). -/
def setIter (s : State) (k : CtxNum) (x : IterCtx) : State :=
  { s with iters := s.iters.set k.toNat x }

end Sys2Proof.Machine
end

