-- ==== Sys2Proof/Machine/Flags.lean ====
section
/-! DEFINITION. What is derived from the two indices (R28): the length, the comparators and the outputs. -/

namespace Sys2Proof.Machine

/-- `len(h, t)` (R104). -/
def len (cfg : Config) (h t : Nat) : Nat :=
  if t ≤ h then h - t else cfg.capacity - (t - h)

/-- `is_empty(h, t)` (R106). -/
def isEmpty (h t : Nat) : Bool := h == t

/-- `is_full(h, t)` (R107). -/
def isFull (cfg : Config) (h t : Nat) : Bool := advance cfg h == t

/-- The `empty` output (R162). -/
def emptyOutput (s : State) : Bool := isEmpty s.head s.tail

/-- The `full` output (R162). -/
def fullOutput (s : State) : Bool := isFull s.cfg s.head s.tail

/-- `contents(h, t)`: the logical contents, oldest first (R25). A `none` would be a slot that holds `⊥` (R37 says there
is none). -/
def contentsOf (cfg : Config) (m : Memory) (h t : Nat) : List (Option Nat) :=
  (List.range (len cfg h t)).map fun k => slotAt m ((t + k) % cfg.capacity)

/-- The logical contents of the buffer now (R25). -/
def contents (s : State) : List (Option Nat) := contentsOf s.cfg s.slots s.head s.tail

/-- The elements context `k` has still to yield, in order, as the slots stand now (R181). -/
def iterContents (s : State) (k : CtxNum) : List (Option Nat) :=
  (List.range (iterAt s k).remaining).map fun j => slotAt s.slots (((iterAt s k).cursor + j) % s.cfg.capacity)

/-- The 3-bit code of a status (R89). -/
def statusCode (x : Status) : BitVec 3 :=
  match x with
  | .ok => 0#3
  | .bufferFull => 1#3
  | .bufferEmpty => 2#3
  | .iterDone => 3#3
  | .illegal => 4#3

end Sys2Proof.Machine
end

