-- ==== Sys2Proof/Machine/Ops.lean ====
section
/-! DEFINITION. The named operations of the spec's pseudocode (00_scope.md R14 to R17): index loads and stores, slot
reads and writes, `respond`, `fault`, the micro-step sequencing, the ILLEGAL answer, and reset. -/

namespace Sys2Proof.Machine

/-- What a meaning answers. -/
abbrev Result := Host.Outcome State Fault Refusal

/-- The port that moves (R59): MAIN when THREAD_SAFE = 0, else the port of the end whose turn it is. -/
def activePort (s : State) : PortId :=
  if s.cfg.threadSafe then
    match s.turn with
    | .producer => .prod
    | .consumer => .cons
  else .main

/-- The other port (R142). MAIN has none and stands for itself. -/
def otherPort (p : PortId) : PortId :=
  match p with
  | .main => .main
  | .prod => .cons
  | .cons => .prod

/-- A port's state. -/
def portAt (s : State) (p : PortId) : PortState :=
  match p with
  | .main => s.main
  | .prod => s.prod
  | .cons => s.cons

/-- Replace a port's state. -/
def setPort (s : State) (p : PortId) (x : PortState) : State :=
  match p with
  | .main => { s with main := x }
  | .prod => { s with prod := x }
  | .cons => { s with cons := x }

/-- The two index registers. -/
inductive IndexReg where
  | head | tail
  deriving DecidableEq, Repr

/-- `LoadIdx(r)` (R15). -/
def loadIdx (r : IndexReg) (s : State) : Nat :=
  match r with
  | .head => s.head
  | .tail => s.tail

/-- `StoreIdx(r, v)` (R15). -/
def storeIdx (r : IndexReg) (v : Nat) (s : State) : State :=
  match r with
  | .head => { s with head := v }
  | .tail => { s with tail := v }

/-- `fault F`, the ONE operation that takes a model fault (R16, R209): the record is set if none stands there yet, and
nothing else changes. The step after it answers the fault (log entry 9). -/
def recordFault (f : ModelFault) (s : State) : State :=
  match s.modelFault with
  | some _ => s
  | none => { s with modelFault := some f }

/-- `MemRead(i, 1)`, its value handed on to `k` (R14, R53): a slot that holds `⊥` is the model fault UnwrittenSlotRead. -/
def memRead (i : Nat) (s : State) (k : Nat → Result) : Result :=
  if i < s.cfg.capacity then
    match slotAt s.slots i with
    | some v => k v
    | none => .next (recordFault .unwrittenSlotRead s)
  else .fault (.slotOutOfRange i)

/-- `MemWrite(i, 1, v)`, the state after it handed on to `k` (R14, R53). A slot is W bits wide (log entry 3). -/
def memWrite (i : Nat) (v : Nat) (s : State) (k : State → Result) : Result :=
  if i < s.cfg.capacity then k { s with slots := setSlot s.slots i (fitWidth s.cfg v) }
  else .fault (.slotOutOfRange i)

/-- A port after `respond`: registers loaded, pulse up, record logged, `IDLE` again (R16, R31, R61, R94). -/
def answerOn (r : Response) (x : PortState) : PortState :=
  { phase := .idle, rspValid := true, rsp := r, log := x.log ++ [r] }

/-- `respond(...)` on the port that moves (R16). -/
def respond (r : Response) (s : State) : State :=
  setPort s (activePort s) (answerOn r (portAt s (activePort s)))

/-- `respond(ILLEGAL)`, with no other effect: the ONE operation in the place of an illegal-instruction exception (R87,
R204, R212). -/
def respondIllegal (s : State) : State := respond { status := .illegal } s

/-- A meaning runs only where its command is admitted, and is answered ILLEGAL elsewhere (R86, R87). -/
def whenAdmitted (i : Instr) (s : State) (k : Result) : Result :=
  if admitted s.cfg (activePort s) i then k else .next (respondIllegal s)

/-- The micro-step the port that moves is about to perform, with its locals (R17, R32). -/
def microStep (s : State) (k : Nat → Locals → Result) : Result :=
  match (portAt s (activePort s)).phase with
  | .idle => .refused .noMicroStep
  | .busy _ j l => k j l

/-- Go on to the next micro-step of the same command with the locals `l` (R17, R32). -/
def continueWith (l : Locals) (s : State) : State :=
  let x := portAt s (activePort s)
  match x.phase with
  | .idle => s
  | .busy c j _ => setPort s (activePort s) { x with phase := .busy c (j + 1) l }

/-- Read a local that an earlier micro-step has set. -/
def withLocal {α : Type} (x : Option α) (k : α → Result) : Result :=
  match x with
  | some a => k a
  | none => .refused .localUnset

/-- A port is in flight: BUSY with `j >= 2` (R32). -/
def inFlight (x : PortState) : Bool :=
  match x.phase with
  | .idle => false
  | .busy _ j _ => decide (2 ≤ j)

/-- The shape IS_EMPTY, IS_FULL, LEN and ITER_CREATE share (R151, R155, R159, R172): both indices are loaded, `head`
first, and `fin` ends the command. One step when THREAD_SAFE = 0, micro-steps s1 and s2 when THREAD_SAFE = 1. -/
def loadBoth (s : State) (fin : Nat → Nat → State → State) : Result :=
  if s.cfg.threadSafe then
    microStep s fun j l =>
      match j with
      | 1 => .next (continueWith { l with h := some (loadIdx .head s) } s)
      | 2 => withLocal l.h fun h => .next (fin h (loadIdx .tail s) s)
      | _ => .refused .noMicroStep
  else .next (fin (loadIdx .head s) (loadIdx .tail s) s)

/-- A port after a reset: `IDLE`, response registers 0, nothing added to its log (R231, R245). -/
def resetPort (x : PortState) : PortState := { PortState.reset with log := x.log }

/-- `reset()` at a rising edge with `rst = 1` (R231): every value of R35, but the model fault record is not cleared
(R209) and the response logs keep what they hold (R245). -/
def resetBlock (s : State) : State :=
  { State.resetOf s.cfg with
    main := resetPort s.main
    prod := resetPort s.prod
    cons := resetPort s.cons
    modelFault := s.modelFault
    inputs := s.inputs }

end Sys2Proof.Machine
end

