-- ==== Sys2Proof/Machine/Control.lean ====
section
/-! DEFINITION. The control commands CLEAR and NOP (42_control.md). -/

namespace Sys2Proof.Machine

/-- NOP (R147): one step or one micro-step, no shared state. -/
def execNop (s : State) : Result :=
  whenAdmitted .nop s (.next (respond { status := .ok } s))

/-- CLEAR (R141, R142): both indices to 0 in one indivisible step; with THREAD_SAFE = 1 and the other port in flight, the
model fault ClearRace instead. -/
def execClear (s : State) : Result :=
  whenAdmitted .clear s <|
    if s.cfg.threadSafe && inFlight (portAt s (otherPort (activePort s))) then
      .next (recordFault .clearRace s)
    else .next (respond { status := .ok } (storeIdx .tail 0 (storeIdx .head 0 s)))

end Sys2Proof.Machine
end

