-- ==== Sys2Proof/Machine/Iterator.lean ====
section
/-! DEFINITION. The iterator commands ITER_CREATE and ITER_NEXT (44_iterator.md). -/

namespace Sys2Proof.Machine

/-- ITER_CREATE k (R172): snapshot `tail` and the length, replacing whatever context `k` held (R171). -/
def execIterCreate (k : CtxNum) (s : State) : Result :=
  whenAdmitted (.iterCreate k) s <|
    loadBoth s fun h t s' =>
      respond { status := .ok, count := len s'.cfg h t }
        (setIter s' k { cursor := t, remaining := len s'.cfg h t })

/-- ITER_NEXT k (R177): one step or one micro-step; the slot is read now, not at creation (R182). -/
def execIterNext (k : CtxNum) (s : State) : Result :=
  whenAdmitted (.iterNext k) s <|
    let x := iterAt s k
    if x.remaining = 0 then .next (respond { status := .iterDone } s)
    else memRead x.cursor s fun v =>
      .next (respond { status := .ok, data := v }
        (setIter s k { cursor := advance s.cfg x.cursor, remaining := x.remaining - 1 }))

end Sys2Proof.Machine
end

