-- ==== Sys2Proof/Machine/Queries.lean ====
section
/-! DEFINITION. The query commands IS_EMPTY, IS_FULL and LEN (43_queries.md). -/

namespace Sys2Proof.Machine

/-- IS_EMPTY (R151). -/
def execIsEmpty (s : State) : Result :=
  whenAdmitted .isEmpty s <|
    loadBoth s fun h t s' => respond { status := .ok, flag := isEmpty h t } s'

/-- IS_FULL (R155). -/
def execIsFull (s : State) : Result :=
  whenAdmitted .isFull s <|
    loadBoth s fun h t s' => respond { status := .ok, flag := isFull s'.cfg h t } s'

/-- LEN (R159). -/
def execLen (s : State) : Result :=
  whenAdmitted .len s <|
    loadBoth s fun h t s' => respond { status := .ok, count := len s'.cfg h t } s'

end Sys2Proof.Machine
end

