-- ==== Sys2Proof/Machine/Transfer.lean ====
section
/-! DEFINITION. The data transfer commands PUSH, POP and PEEK (41_transfer.md). -/

namespace Sys2Proof.Machine

/-- PUSH when THREAD_SAFE = 0, one indivisible step (R121). -/
def pushWhole (v : Nat) (s : State) : Result :=
  let h := loadIdx .head s
  let n := advance s.cfg h
  if n = loadIdx .tail s then
    if s.cfg.overwriteOnFull then
      memWrite h v (storeIdx .tail (advance s.cfg (loadIdx .tail s)) s) fun s' =>
        .next (respond { status := .ok } (storeIdx .head n s'))
    else .next (respond { status := .bufferFull } s)
  else memWrite h v s fun s' => .next (respond { status := .ok } (storeIdx .head n s'))

/-- PUSH when THREAD_SAFE = 1, micro-steps s1 to s4 (R122): the slot is written before the new `head` is published (R63). -/
def pushMicro (v : Nat) (s : State) : Result :=
  microStep s fun j l =>
    match j with
    | 1 =>
      let h := loadIdx .head s
      .next (continueWith { l with h := some h, n := some (advance s.cfg h) } s)
    | 2 =>
      withLocal l.n fun n =>
        let t := loadIdx .tail s
        if n = t then .next (respond { status := .bufferFull } s)
        else .next (continueWith { l with t := some t } s)
    | 3 => withLocal l.h fun h => memWrite h v s fun s' => .next (continueWith l s')
    | 4 => withLocal l.n fun n => .next (respond { status := .ok } (storeIdx .head n s))
    | _ => .refused .noMicroStep

/-- PUSH (R120 to R124). -/
def execPush (v : Nat) (s : State) : Result :=
  whenAdmitted (.push v) s <| if s.cfg.threadSafe then pushMicro v s else pushWhole v s

/-- POP when THREAD_SAFE = 0, one indivisible step (R127): read before advancing. -/
def popWhole (s : State) : Result :=
  let t := loadIdx .tail s
  if t = loadIdx .head s then .next (respond { status := .bufferEmpty } s)
  else memRead t s fun v =>
    .next (respond { status := .ok, data := v } (storeIdx .tail (advance s.cfg t) s))

/-- POP when THREAD_SAFE = 1, micro-steps s1 to s4 (R128): the slot is read before the new `tail` is published (R64). -/
def popMicro (s : State) : Result :=
  microStep s fun j l =>
    match j with
    | 1 => .next (continueWith { l with h := some (loadIdx .head s) } s)
    | 2 =>
      withLocal l.h fun h =>
        let t := loadIdx .tail s
        if t = h then .next (respond { status := .bufferEmpty } s)
        else .next (continueWith { l with t := some t } s)
    | 3 => withLocal l.t fun t => memRead t s fun v => .next (continueWith { l with v := some v } s)
    | 4 =>
      withLocal l.t fun t =>
        withLocal l.v fun v =>
          .next (respond { status := .ok, data := v } (storeIdx .tail (advance s.cfg t) s))
    | _ => .refused .noMicroStep

/-- POP (R126 to R130). -/
def execPop (s : State) : Result :=
  whenAdmitted .pop s <| if s.cfg.threadSafe then popMicro s else popWhole s

/-- PEEK when THREAD_SAFE = 0, one indivisible step (R133). -/
def peekWhole (s : State) : Result :=
  let t := loadIdx .tail s
  if t = loadIdx .head s then .next (respond { status := .bufferEmpty } s)
  else memRead t s fun v => .next (respond { status := .ok, data := v } s)

/-- PEEK when THREAD_SAFE = 1, micro-steps s1 to s3 (R134). -/
def peekMicro (s : State) : Result :=
  microStep s fun j l =>
    match j with
    | 1 => .next (continueWith { l with h := some (loadIdx .head s) } s)
    | 2 =>
      withLocal l.h fun h =>
        let t := loadIdx .tail s
        if t = h then .next (respond { status := .bufferEmpty } s)
        else .next (continueWith { l with t := some t } s)
    | 3 => withLocal l.t fun t => memRead t s fun v => .next (respond { status := .ok, data := v } s)
    | _ => .refused .noMicroStep

/-- PEEK (R132 to R136). -/
def execPeek (s : State) : Result :=
  whenAdmitted .peek s <| if s.cfg.threadSafe then peekMicro s else peekWhole s

end Sys2Proof.Machine
end

