-- ==== Sys2Proof/Machine/Dispatch.lean ====
section
/-! DEFINITION. One arm per command of the opcode map. When THREAD_SAFE = 1, `exec` performs the next micro-step of the
command on the port that moves (R17, log entry 11); when THREAD_SAFE = 0, the whole command (R60). -/

namespace Sys2Proof.Machine

def exec (i : Instr) (s : State) : Host.Outcome State Fault Refusal :=
  match i with
  | .nop => Sys2Proof.Machine.execNop s
  | .push v => Sys2Proof.Machine.execPush v s
  | .pop => Sys2Proof.Machine.execPop s
  | .peek => Sys2Proof.Machine.execPeek s
  | .clear => Sys2Proof.Machine.execClear s
  | .isEmpty => Sys2Proof.Machine.execIsEmpty s
  | .isFull => Sys2Proof.Machine.execIsFull s
  | .len => Sys2Proof.Machine.execLen s
  | .iterCreate k => Sys2Proof.Machine.execIterCreate k s
  | .iterNext k => Sys2Proof.Machine.execIterNext k s

end Sys2Proof.Machine
end

