-- ==== Sys2Proof/Machine/Ports.lean ====
section
/-! DEFINITION. The handshake and the host side of a step (R61, R93, R94, R230 to R232): which input a step reads, what
the edge does first, and which action it selects. -/

namespace Sys2Proof.Machine

/-- The end that moves when the environment says nothing: CONS when it alone is busy, else PROD. It keeps weak fairness
(R74, log entry 6). -/
def defaultTurn (s : State) : Side :=
  match s.prod.phase, s.cons.phase with
  | .idle, .busy _ _ _ => .consumer
  | .idle, .idle => .producer
  | .busy _ _ _, _ => .producer

/-- What the environment does at this step: the first listed input, else nothing presented and `rst = 0`. -/
def nextInput (s : State) : Input :=
  match s.inputs with
  | x :: _ => x
  | [] => { rst := false, turn := defaultTurn s, cmd := none }

/-- `<p>cmd_ready` (R94): no accepted command that has not yet responded, and `rst` is 0. -/
def cmdReady (s : State) (p : PortId) : Bool :=
  decide ((portAt s p).phase = .idle) && !(nextInput s).rst

/-- The response pulse ends (R31, R94). -/
def endPulse (x : PortState) : PortState := { x with rspValid := false }

/-- What every step does first: it takes its input, the moving end is fixed, and the pulses of the last step end (log
entry 8). -/
def edge (s : State) : State :=
  { s with
    inputs := s.inputs.tail
    turn := (nextInput s).turn
    main := endPulse s.main
    prod := endPulse s.prod
    cons := endPulse s.cons }

/-- The values a port samples when it accepts a command (R94): `cmd_data` is W bits wide. -/
def sample (cfg : Config) (c : Command) : Command := { c with data := fitWidth cfg c.data }

/-- Acceptance when THREAD_SAFE = 1: the port goes from `IDLE` to BUSY(cmd, 1), its locals unset (R61, R94). -/
def acceptOn (p : PortId) (c : Command) (s : State) : State :=
  setPort s p { portAt s p with phase := .busy (sample s.cfg c) 1 {} }

/-- What a step does. -/
inductive Action where
  /-- a rising edge with `rst = 1` (R230) -/
  | reset
  /-- nothing: no command is presented, and the moving port has none to go on with -/
  | idle
  /-- the moving port accepts a command (THREAD_SAFE = 1) -/
  | accept (c : Command)
  /-- the moving port runs a command, or its next micro-step -/
  | run (c : Command)
  deriving DecidableEq, Repr

/-- The action of a step whose input is `x`, in the state after the edge. Reset wins over everything (R208). A command
presented while the port is busy is not accepted (R235), so a busy port goes on with the one it holds. -/
def selectAction (x : Input) (s : State) : Action :=
  if x.rst then .reset
  else if s.cfg.threadSafe then
    match (portAt s (activePort s)).phase with
    | .busy c _ _ => .run c
    | .idle =>
      match x.cmd with
      | some c => .accept c
      | none => .idle
  else
    match x.cmd with
    | some c => .run (sample s.cfg c)
    | none => .idle

/-- The end on whose port a command is placed by `placeCommand`: PUSH on PROD, everything else on CONS (R86). -/
def placeSide (c : Command) : Side :=
  if opField c.cmd = 0x1#4 then .producer else .consumer

/-- Put a command where the next step runs it (log entry 7): presented on MAIN when THREAD_SAFE = 0; accepted by the port
that permits it, whose turn is next, when THREAD_SAFE = 1. -/
def placeCommand (c : Command) (s : State) : State :=
  if s.cfg.threadSafe then
    let p := match placeSide c with
      | .producer => PortId.prod
      | .consumer => PortId.cons
    { acceptOn p c s with inputs := { rst := false, turn := placeSide c, cmd := none } :: s.inputs }
  else { s with inputs := { rst := false, turn := .producer, cmd := some c } :: s.inputs }

/-- A state a run ends in (R245): nothing left to present, every port `IDLE`, no model fault. -/
def runEnded (s : State) : Bool :=
  s.inputs.isEmpty && decide (s.main.phase = .idle) && decide (s.prod.phase = .idle)
    && decide (s.cons.phase = .idle) && s.modelFault.isNone

/-- What the host observes (R39): the response log of each port and the two outputs. -/
structure Observation where
  mainLog : List Response
  prodLog : List Response
  consLog : List Response
  empty : Bool
  full : Bool
  deriving DecidableEq, Repr

/-- The observation of a state (R39). -/
def observe (s : State) : Observation :=
  { mainLog := s.main.log, prodLog := s.prod.log, consLog := s.cons.log,
    empty := emptyOutput s, full := fullOutput s }

end Sys2Proof.Machine
end

