-- ==== Sys2Proof/Machine/Step.lean ====
section
/-! DEFINITION. One step of the block (R60, R61): the edge, then a reset, an acceptance, a command or micro-step, or
nothing. The step relation takes the configuration tuple as an argument (R3). -/

namespace Sys2Proof.Machine

/-- Run the command a port holds: a reserved `op` is answered ILLEGAL (R83, R87), every other by its meaning. -/
def runCommand (c : Command) (s : State) : Host.Outcome State Fault Refusal :=
  match decode c with
  | .error _ => .next (respondIllegal s)
  | .ok i => exec i s

/-- What one step does to a block. A configuration that is never elaborated has none (R210). A recorded model fault leaves only a reset a
meaning (R209). -/
def takeStep (s : State) : Result :=
  match badConfig s.cfg with
  | some b => .refused (.illegalConfiguration b)
  | none =>
    match selectAction (nextInput s) (edge s), s.modelFault with
    | .reset, _ => .next (resetBlock (edge s))
    | .idle, none => .next (edge s)
    | .accept c, none => .next (acceptOn (activePort (edge s)) c (edge s))
    | .run c, none => runCommand c (edge s)
    | .idle, some f => .fault (.modelFault f)
    | .accept _, some f => .fault (.modelFault f)
    | .run _, some f => .fault (.modelFault f)

/-- What one step does to the state alone. -/
def dropConfig (r : Result) : Host.Outcome BlockState Fault Refusal :=
  match r with
  | .next t => .next t.toBlockState
  | .fault f => .fault f
  | .refused x => .refused x

/-- The outcome of a step of a block whose tuple is `cfg`. -/
def keepConfig (cfg : Config) (r : Host.Outcome BlockState Fault Refusal) : Result :=
  match r with
  | .next b => .next (b.withConfig cfg)
  | .fault f => .fault f
  | .refused x => .refused x

/-- The step relation of the spec: the configuration tuple is its argument, and no part of the state it steps (R3). -/
def stepOf (cfg : Config) (b : BlockState) : Host.Outcome BlockState Fault Refusal :=
  dropConfig (takeStep (b.withConfig cfg))

/-- One step of a block: the step relation at the block's own tuple, which stays what it is (R3, R34). -/
def step (s : State) : Host.Outcome State Fault Refusal := keepConfig s.cfg (stepOf s.cfg s.toBlockState)

/-- The machine that is built with the tuple `cfg`: the tuple is fixed before it runs, and its states do not hold it (R3). -/
def machineOf (cfg : Config) : Host.Core :=
  { State := BlockState
    Fault := Fault
    Refusal := Refusal
    step := stepOf cfg
    reset := BlockState.resetOf cfg }

/-- The state with a word of the opcode table stored where the next step runs it (log entry 7). -/
def State.withFetchWord (s : State) (nbits w : Nat) : State := placeCommand (tableCommand nbits w) s

end Sys2Proof.Machine
end

