-- ==== Sys2Proof/Machine/Assembler.lean ====
section
/-! DEFINITION. Assembler lines (R91, R92): `[PORT:] MNEMONIC [operand] [; comment]` to a port and a raw command. A line
is a list of characters. The points R91 leaves open are in log entry 21. -/

namespace Sys2Proof.Machine

/-- A blank between two words of a line. -/
def isBlank (c : Char) : Bool := c == ' ' || c == '\t'

/-- The words of a line, split at blanks; `w` is the word read so far. -/
def wordsFrom (w : List Char) (line : List Char) : List (List Char) :=
  match line with
  | [] => if w.isEmpty then [] else [w]
  | c :: rest =>
    if isBlank c then (if w.isEmpty then wordsFrom [] rest else w :: wordsFrom [] rest)
    else wordsFrom (w ++ [c]) rest

/-- The words of a line, up to a `;` that starts a comment (R91). -/
def lineWords (line : List Char) : List (List Char) :=
  wordsFrom [] (line.takeWhile (· != ';'))

/-- The value of a digit, of base at most 16. -/
def digitValue (c : Char) : Option Nat :=
  let n := c.toNat
  if 48 ≤ n ∧ n ≤ 57 then some (n - 48)
  else if 65 ≤ n ∧ n ≤ 70 then some (n - 55)
  else if 97 ≤ n ∧ n ≤ 102 then some (n - 87)
  else none

/-- The digits of a numeral in a base, most significant first; `acc` is the value read so far. -/
def digitsFrom (base acc : Nat) (w : List Char) : Option Nat :=
  match w with
  | [] => some acc
  | c :: rest =>
    match digitValue c with
    | some d => if d < base then digitsFrom base (base * acc + d) rest else none
    | none => none

/-- A decimal numeral (R91). -/
def decimalNumeral (w : List Char) : Option Nat :=
  match w with
  | [] => none
  | _ :: _ => digitsFrom 10 0 w

/-- A decimal numeral or a `0x` hex numeral (R91). -/
def dataNumeral (w : List Char) : Option Nat :=
  match w with
  | '0' :: 'x' :: d :: rest => digitsFrom 16 0 (d :: rest)
  | _ => decimalNumeral w

/-- The context number of an iterator line: a decimal numeral below N_ITER (R91). -/
def contextNumeral (cfg : Config) (w : List Char) : Option CtxNum :=
  match decimalNumeral w with
  | some k => if k < cfg.nIter ∧ k < 16 then some (BitVec.ofNat 4 k) else none
  | none => none

/-- The command a mnemonic and its operand words stand for (R82, R91). -/
def assembleCommand (cfg : Config) (ws : List (List Char)) : Option Instr :=
  match ws with
  | [['N', 'O', 'P']] => some .nop
  | [['P', 'U', 'S', 'H'], x] =>
    match dataNumeral x with
    | some v => if v < 2 ^ cfg.dataWidth then some (.push v) else none
    | none => none
  | [['P', 'O', 'P']] => some .pop
  | [['P', 'E', 'E', 'K']] => some .peek
  | [['C', 'L', 'E', 'A', 'R']] => some .clear
  | [['I', 'S', '_', 'E', 'M', 'P', 'T', 'Y']] => some .isEmpty
  | [['I', 'S', '_', 'F', 'U', 'L', 'L']] => some .isFull
  | [['L', 'E', 'N']] => some .len
  | [['I', 'T', 'E', 'R', '_', 'C', 'R', 'E', 'A', 'T', 'E'], x] => (contextNumeral cfg x).map .iterCreate
  | [['I', 'T', 'E', 'R', '_', 'N', 'E', 'X', 'T'], x] => (contextNumeral cfg x).map .iterNext
  | _ => none

/-- The port a line names and the rest of its words: `PROD` or `CONS` when THREAD_SAFE = 1, `MAIN` or nothing when
THREAD_SAFE = 0 (R91). -/
def linePort (cfg : Config) (ws : List (List Char)) : Option (PortId × List (List Char)) :=
  if cfg.threadSafe then
    match ws with
    | ['P', 'R', 'O', 'D', ':'] :: rest => some (.prod, rest)
    | ['C', 'O', 'N', 'S', ':'] :: rest => some (.cons, rest)
    | _ => none
  else
    match ws with
    | ['M', 'A', 'I', 'N', ':'] :: rest => some (.main, rest)
    | _ => some (.main, ws)

/-- One assembler line: the port and the raw command it encodes to (R91). -/
def assembleLine (cfg : Config) (line : List Char) : Option (PortId × Command) :=
  match linePort cfg (lineWords line) with
  | some (p, ws) => (assembleCommand cfg ws).map fun i => (p, encode i)
  | none => none

end Sys2Proof.Machine
end

