-- ==== Sys2Proof/Safety.lean ====
section
/-! DEFINITION. What counts as a safe run, and the terms claims use: the invariant of the block (R24, R30, R37 and what
the micro-steps in progress rely on) and the frame predicates. -/

namespace Sys2Proof.Machine

/-- No model fault is recorded: the premise of every claim about the block (R209). -/
abbrev Safe (s : State) : Prop := s.modelFault = none

/-- The configuration is elaborated (R210, R233). -/
abbrev Legal (s : State) : Prop := badConfig s.cfg = none

/-- R24. -/
abbrev IndicesInRange (s : State) : Prop := s.head < s.cfg.capacity ∧ s.tail < s.cfg.capacity

/-- The storage is in canonical form, has no slot but `0 .. C - 1`, and holds W-bit values (R20, R21). -/
abbrev StorageOk (s : State) : Prop :=
  memoryWf s.slots = true ∧ ∀ x ∈ s.slots, x.1 < s.cfg.capacity ∧ x.2 < 2 ^ s.cfg.dataWidth

/-- R29 and R30. -/
abbrev ContextsOk (s : State) : Prop :=
  s.iters.length = s.cfg.nIter ∧ ∀ x ∈ s.iters, x.cursor < s.cfg.capacity ∧ x.remaining ≤ s.cfg.capacity - 1

/-- Every slot of the logical range holds a value (R37, first part). -/
abbrev LogicalWritten (s : State) : Prop :=
  ∀ k < len s.cfg s.head s.tail, (slotAt s.slots ((s.tail + k) % s.cfg.capacity)).isSome = true

/-- Every slot an iterator context can still read holds a value (R37, second part). -/
abbrev ContextsWritten (s : State) : Prop :=
  ∀ x ∈ s.iters, ∀ j < x.remaining, (slotAt s.slots ((x.cursor + j) % s.cfg.capacity)).isSome = true

/-- A response fits the response registers: W bits of data, a count of at most `C - 1` (R31, R104). -/
abbrev ResponseFits (cfg : Config) (r : Response) : Prop :=
  r.data < 2 ^ cfg.dataWidth ∧ r.count ≤ cfg.capacity - 1

/-- Every response a port holds fits. -/
abbrev PortFits (cfg : Config) (x : PortState) : Prop :=
  ResponseFits cfg x.rsp ∧ ∀ r ∈ x.log, ResponseFits cfg r

/-- A local copy `h` of `head` taken earlier: the elements it shows are still there (R70). -/
def staleHeadOk (s : State) (h : Option Nat) : Bool :=
  match h with
  | some h => decide (h < s.cfg.capacity) && decide (len s.cfg h s.tail ≤ len s.cfg s.head s.tail)
  | none => false

/-- What a command in progress on PROD relies on: its own `head`, the room it saw at s2, and the slot it wrote at s3
(R122, R65). -/
def prodPhaseOk (s : State) : Bool :=
  match s.prod.phase with
  | .idle => true
  | .busy c j l =>
    decide (c.data < 2 ^ s.cfg.dataWidth) &&
      (decide (j = 1) ||
        match decodeAt s.cfg .prod c with
        | some (.push v) =>
          decide (l.h = some s.head) && decide (l.n = some (advance s.cfg s.head)) &&
            (decide (j = 2) ||
              (decide (advance s.cfg s.head ≠ s.tail) &&
                (decide (j = 3) || (decide (j = 4) && decide (slotAt s.slots s.head = some v)))))
        | some .isEmpty => decide (j = 2) && decide (l.h = some s.head)
        | some .isFull => decide (j = 2) && decide (l.h = some s.head)
        | some .len => decide (j = 2) && decide (l.h = some s.head)
        | some .nop => false
        | some .clear => false
        | some .pop => false
        | some .peek => false
        | some (.iterCreate _) => false
        | some (.iterNext _) => false
        | none => false)

/-- What a command in progress on CONS relies on: a copy of `head` that is not ahead of it, its own `tail`, an element
there, and the value it read (R128, R134, R69, R70). -/
def consPhaseOk (s : State) : Bool :=
  match s.cons.phase with
  | .idle => true
  | .busy c j l =>
    decide (c.data < 2 ^ s.cfg.dataWidth) &&
      (decide (j = 1) ||
        match decodeAt s.cfg .cons c with
        | some .pop =>
          (decide (j = 2) && staleHeadOk s l.h) ||
            (decide (l.t = some s.tail) && decide (s.head ≠ s.tail) &&
              (decide (j = 3) || (decide (j = 4) && l.v.isSome && decide (slotAt s.slots s.tail = l.v))))
        | some .peek =>
          (decide (j = 2) && staleHeadOk s l.h) ||
            (decide (l.t = some s.tail) && decide (s.head ≠ s.tail) && decide (j = 3))
        | some .isEmpty => decide (j = 2) && staleHeadOk s l.h
        | some .isFull => decide (j = 2) && staleHeadOk s l.h
        | some .len => decide (j = 2) && staleHeadOk s l.h
        | some (.iterCreate _) => decide (j = 2) && staleHeadOk s l.h
        | some .nop => false
        | some .clear => false
        | some (.push _) => false
        | some (.iterNext _) => false
        | none => false)

/-- A port that does not exist in this configuration holds no command (R59, R60): every port when THREAD_SAFE = 0, since
a command is one step there, and MAIN when THREAD_SAFE = 1. -/
abbrev AbsentPortsIdle (s : State) : Prop :=
  s.main.phase = .idle ∧ (s.cfg.threadSafe = false → s.prod.phase = .idle ∧ s.cons.phase = .idle)

/-- The invariant of the block. It holds in ResetState and every step keeps it. -/
abbrev Inv (s : State) : Prop :=
  IndicesInRange s ∧ StorageOk s ∧ ContextsOk s ∧ LogicalWritten s ∧ ContextsWritten s ∧
    PortFits s.cfg s.main ∧ PortFits s.cfg s.prod ∧ PortFits s.cfg s.cons ∧ AbsentPortsIdle s ∧
    prodPhaseOk s = true ∧ consPhaseOk s = true

/-- Every slot reads in `t` as in `s`. -/
abbrev SameStorage (s t : State) : Prop := ∀ a, slotAt t.slots a = slotAt s.slots a

/-- Every slot but `b` reads in `t` as in `s`. -/
abbrev SameStorageBut (b : Nat) (s t : State) : Prop := ∀ a, a ≠ b → slotAt t.slots a = slotAt s.slots a

/-- Neither the configuration, the model fault record, nor the model's own fields differ. -/
abbrev SameRest (s t : State) : Prop :=
  t.cfg = s.cfg ∧ t.modelFault = s.modelFault ∧ t.turn = s.turn ∧ t.inputs = s.inputs

/-- Every port but `p` is the same. -/
abbrev SameOtherPorts (p : PortId) (s t : State) : Prop := ∀ q, q ≠ p → portAt t q = portAt s q

/-- From `s` to `t` the port that moves answered `r`, once: registers loaded, pulse up, record logged, `IDLE` again; the
other ports and the rest are the same (R16, R31, R73, R94). -/
abbrev Answers (r : Response) (s t : State) : Prop :=
  portAt t (activePort s)
      = { phase := .idle, rspValid := true, rsp := r, log := (portAt s (activePort s)).log ++ [r] } ∧
    SameOtherPorts (activePort s) s t ∧ SameRest s t

/-- From `s` to `t` the port that moves went on from micro-step `j` of the command `c` to the next one, with the locals
`l`; its response channel, the other ports and the rest are the same (R17, R32). -/
abbrev GoesOn (c : Command) (j : Nat) (l : Locals) (s t : State) : Prop :=
  portAt t (activePort s) = { portAt s (activePort s) with phase := .busy c (j + 1) l } ∧
    SameOtherPorts (activePort s) s t ∧ SameRest s t

/-- Neither index, nor a slot, nor an iterator context differs: the state that all ports share, and the contexts. -/
abbrev SameBuffer (s t : State) : Prop :=
  t.head = s.head ∧ t.tail = s.tail ∧ SameStorage s t ∧ t.iters = s.iters

/-- The command a port is about to take its first micro-step of, or to go on with at micro-step `j` (R32). -/
abbrev AtMicro (s : State) (c : Command) (j : Nat) (l : Locals) : Prop :=
  s.cfg.threadSafe = true ∧ (portAt s (activePort s)).phase = .busy c j l

end Sys2Proof.Machine
end

