-- ==== Sys2Proof/Certificates/Slice0/Obligations.lean ====
section
/-! DEFINITION. The statements for the provers. Each docstring names the rules of spec/ it formalises. A model fault recorded
in the state reached has no meaning (R209), so a statement about such a state says `Safe`. -/

open Sys2Proof Sys2Proof.Machine

/-! ### Configuration and index arithmetic -/

/-- R6: POW2 and WRAP_MASK. -/
def Obligations.WrapMaskPresentExactlyForPowersOfTwo : Prop :=
  ∀ cfg : Config,
    (pow2 cfg = true ↔ ∃ K, cfg.capacity = 2 ^ K) ∧
    (pow2 cfg = true → wrapMask cfg = some (cfg.capacity - 1)) ∧
    (pow2 cfg = false → wrapMask cfg = none)

/-- R7: IW is the least width of at least one bit that holds every index. -/
def Obligations.IndexWidthIsLeast : Prop :=
  ∀ cfg : Config, 1 ≤ indexWidth cfg ∧ cfg.capacity ≤ 2 ^ indexWidth cfg ∧
    ∀ w, 1 ≤ w → cfg.capacity ≤ 2 ^ w → indexWidth cfg ≤ w

/-- R210, R233: exactly the illegal configurations are refused, and a refused one has no step. -/
def Obligations.IllegalConfigurationHasNoStep : Prop :=
  ∀ s : State,
    (Legal s ↔ 1 ≤ s.cfg.capacity ∧ 1 ≤ s.cfg.dataWidth ∧ (1 ≤ s.cfg.nIter ∧ s.cfg.nIter ≤ 16) ∧
      ¬(s.cfg.threadSafe = true ∧ s.cfg.overwriteOnFull = true)) ∧
    ∀ b, badConfig s.cfg = some b → step s = .refused (.illegalConfiguration b)

/-- R102: the mask path and the modulo path are the same function. -/
def Obligations.MaskPathEqualsModuloPath : Prop :=
  ∀ (cfg : Config) (i : Nat), i < cfg.capacity →
    (pow2 cfg = true → (i + 1) &&& (cfg.capacity - 1) = (i + 1) % cfg.capacity) ∧
    advance cfg i = (i + 1) % cfg.capacity ∧
    advance cfg i = if i = cfg.capacity - 1 then 0 else i + 1

/-- R103: `advance` stays below `C`, and exactly `C` applications return to the start. -/
def Obligations.AdvanceVisitsEverySlotOncePerLap : Prop :=
  ∀ (cfg : Config) (i : Nat), i < cfg.capacity →
    advance cfg i < cfg.capacity ∧ (advance cfg)^[cfg.capacity] i = i ∧
    ∀ n, 0 < n → n < cfg.capacity → (advance cfg)^[n] i ≠ i

/-- R105, with R104's bound: `len` is the difference modulo `C`, and not the IW-bit difference unless `C` is `2 ^ IW` or 1. -/
def Obligations.LenIsDifferenceModuloCapacity : Prop :=
  ∀ (cfg : Config) (h t : Nat), h < cfg.capacity → t < cfg.capacity →
    ((len cfg h t : Int) = ((h : Int) - (t : Int)) % (cfg.capacity : Int)) ∧
    len cfg h t ≤ cfg.capacity - 1 ∧
    ((cfg.capacity = 2 ^ indexWidth cfg ∨ cfg.capacity = 1) →
      (h + 2 ^ indexWidth cfg - t) % 2 ^ indexWidth cfg = len cfg h t) ∧
    (cfg.capacity ≠ 2 ^ indexWidth cfg → h < t →
      (h + 2 ^ indexWidth cfg - t) % 2 ^ indexWidth cfg ≠ len cfg h t)

/-- R108: the comparators agree with the length. -/
def Obligations.ComparatorsAgreeWithLen : Prop :=
  ∀ (cfg : Config) (h t : Nat), h < cfg.capacity → t < cfg.capacity →
    (isEmpty h t = true ↔ len cfg h t = 0) ∧
    (isFull cfg h t = true ↔ len cfg h t = cfg.capacity - 1) ∧
    (2 ≤ cfg.capacity → ¬(isEmpty h t = true ∧ isFull cfg h t = true)) ∧
    (cfg.capacity = 1 → isEmpty h t = true ∧ isFull cfg h t = true)

/-- R109: with one slot the buffer is always empty and full at once. -/
def Obligations.SingleSlotIsEmptyAndFullAtOnce : Prop :=
  ∀ s : State, IndicesInRange s → s.cfg.capacity = 1 →
    advance s.cfg 0 = 0 ∧ s.head = 0 ∧ s.tail = 0 ∧ emptyOutput s = true ∧ fullOutput s = true ∧ contents s = []

/-- R162, R25, R26: the outputs are the comparators of the current indices, and agree with the logical contents. -/
def Obligations.OutputsAgreeWithContents : Prop :=
  ∀ s : State, IndicesInRange s →
    (emptyOutput s = true ↔ s.head = s.tail) ∧ (fullOutput s = true ↔ advance s.cfg s.head = s.tail) ∧
    (contents s).length = len s.cfg s.head s.tail ∧ (contents s).length ≤ s.cfg.capacity - 1 ∧
    (emptyOutput s = true ↔ contents s = []) ∧
    (fullOutput s = true ↔ (contents s).length = s.cfg.capacity - 1)

/-! ### Encoding and decoding -/

/-- R82, R92: decoding an encoded command gives it back, on every port that admits it, and a word decodes to a command
only if it holds that command's opcode and the operands the command reads. -/
def Obligations.DecodeAndEncodeAgree : Prop :=
  (∀ i : Instr, decode (encode i) = .ok i) ∧
  (∀ (cfg : Config) (p : PortId) (i : Instr), admitted cfg p i = true ↔ decodeAt cfg p (encode i) = some i) ∧
  (∀ (c : Command) (i : Instr), decode c = .ok i ↔
    opField c.cmd = opcode i ∧
      match i with
      | .push v => c.data = v
      | .iterCreate k => iterField c.cmd = k
      | .iterNext k => iterField c.cmd = k
      | .nop => True
      | .pop => True
      | .peek => True
      | .clear => True
      | .isEmpty => True
      | .isFull => True
      | .len => True)

/-- Words written out bit by bit from R81 and R82, as 91 and 95 give them. -/
def Obligations.WrittenOutWordsDecode : Prop :=
  decode { cmd := 0b00000000#8, data := 0 } = .ok .nop ∧
  decode { cmd := 0b11110000#8, data := 0xAA } = .ok .nop ∧
  decode { cmd := 0b00000001#8, data := 0xAB } = .ok (.push 0xAB) ∧
  decode { cmd := 0b00000100#8, data := 0 } = .ok .clear ∧
  decode { cmd := 0b00000111#8, data := 0 } = .ok .len ∧
  decode { cmd := 0b00101001#8, data := 0 } = .ok (.iterNext 2) ∧
  decode { cmd := 0b01111010#8, data := 0 } = .error (.reservedOp 0xA)

/-- R83: a reserved `op` is answered ILLEGAL with no other effect, whatever `iter` and `cmd_data` are. -/
def Obligations.ReservedOpIsAnsweredIllegal : Prop :=
  ∀ (s : State) (c : Command), 0xA ≤ (opField c.cmd).toNat →
    decode c = .error (.reservedOp (opField c.cmd)) ∧
    ∃ t, runCommand c s = .next t ∧ Answers { status := .illegal } s t ∧ SameBuffer s t

/-- R86: the permission table, and what a command meets on a port that does not permit it. -/
def Obligations.PortPermissionTable : Prop :=
  (∀ i : Instr, permitted .main i = true ∧
    (permitted .prod i = false ↔ opcode i ∈ [0x2#4, 0x3#4, 0x8#4, 0x9#4]) ∧
    (permitted .cons i = false ↔ opcode i = 0x1#4)) ∧
  (∀ (s : State) (i : Instr), permitted (activePort s) i = false →
    ∃ t, exec i s = .next t ∧ Answers { status := .illegal } s t ∧ SameBuffer s t)

/-- R84: the context number, what `k >= N_ITER` meets, and that every other command ignores `iter`. -/
def Obligations.ContextNumberField : Prop :=
  (∀ c : Command, (iterField c.cmd).toNat = c.cmd.toNat / 16) ∧
  (∀ (s : State) (k : CtxNum), s.cfg.nIter ≤ k.toNat →
    (∃ t, exec (.iterCreate k) s = .next t ∧ Answers { status := .illegal } s t ∧ SameBuffer s t) ∧
    (∃ t, exec (.iterNext k) s = .next t ∧ Answers { status := .illegal } s t ∧ SameBuffer s t)) ∧
  (∀ c c' : Command, opField c.cmd = opField c'.cmd → c.data = c'.data →
    opField c.cmd ≠ 0x8#4 → opField c.cmd ≠ 0x9#4 → decode c = decode c')

/-- R87: decoding is total, and a command it calls ILLEGAL is answered so in one step that touches nothing else; any
other runs its meaning. -/
def Obligations.DecodeIsTotalAndIllegalHasNoEffect : Prop :=
  ∀ (s : State) (c : Command),
    (decodeAt s.cfg (activePort s) c = none ↔
      0xA ≤ (opField c.cmd).toNat ∨ ∃ i, decode c = .ok i ∧
        (permitted (activePort s) i = false ∨
          ((opField c.cmd = 0x8#4 ∨ opField c.cmd = 0x9#4) ∧ s.cfg.nIter ≤ (iterField c.cmd).toNat))) ∧
    (decodeAt s.cfg (activePort s) c = none →
      ∃ t, runCommand c s = .next t ∧ Answers { status := .illegal } s t ∧ SameBuffer s t) ∧
    (∀ i, decodeAt s.cfg (activePort s) c = some i → decode c = .ok i ∧ runCommand c s = exec i s)

/-- R91: assembler lines of 30_encoding.md and 95_test_vectors.md, and lines R91 does not allow. -/
def Obligations.AssemblerLinesEncode : Prop :=
  assembleLine { Config.standard with threadSafe := true }
      ['C', 'O', 'N', 'S', ':', ' ', 'I', 'T', 'E', 'R', '_', 'N', 'E', 'X', 'T', ' ', '2']
    = some (.cons, { cmd := 0x29#8, data := 0 }) ∧
  assembleLine Config.standard ['P', 'U', 'S', 'H', ' ', '0', 'x', 'A', 'B', ' ', ';', ' ', 'P']
    = some (.main, { cmd := 0x01#8, data := 0xAB }) ∧
  assembleLine Config.standard ['P', 'U', 'S', 'H', ' ', '2', '5', '6'] = none ∧
  assembleLine Config.standard ['I', 'T', 'E', 'R', '_', 'N', 'E', 'X', 'T', ' ', '4'] = none ∧
  assembleLine Config.standard ['P', 'O', 'P', ' ', '1'] = none

/-! ### Steps, handshake, reset -/

/-- R60: when THREAD_SAFE = 0, a step that is given a command runs it whole, in the state after the edge. The edge takes the
input, ends the response pulses and fixes the moving end (log entries 5 and 8), and changes nothing else. -/
def Obligations.StepRunsPresentedCommand : Prop :=
  ∀ (s : State) (d : Side) (c : Command) (rest : List Input) (i : Instr),
    Legal s → Safe s → s.cfg.threadSafe = false →
    s.inputs = { rst := false, turn := d, cmd := some c } :: rest → c.data < 2 ^ s.cfg.dataWidth →
    decode c = .ok i →
    step s = exec i (edge s) ∧
      edge s = { s with
                 inputs := rest
                 turn := d
                 main := { s.main with rspValid := false }
                 prod := { s.prod with rspValid := false }
                 cons := { s.cons with rspValid := false } } ∧
      activePort (edge s) = .main

/-- R61: when THREAD_SAFE = 1, a step on a busy port runs the next micro-step of the command that port holds, whatever is
presented on it (R235), in the state after the edge (log entries 5 and 8). -/
def Obligations.StepRunsHeldCommand : Prop :=
  ∀ (s : State) (x : Input) (rest : List Input) (p : PortId) (c : Command) (j : Nat) (l : Locals) (i : Instr),
    Legal s → Safe s → s.cfg.threadSafe = true → s.inputs = x :: rest → x.rst = false →
    (p = match x.turn with | .producer => .prod | .consumer => .cons) →
    (portAt s p).phase = .busy c j l → decode c = .ok i →
    step s = exec i (edge s) ∧
      edge s = { s with
                 inputs := rest
                 turn := x.turn
                 main := { s.main with rspValid := false }
                 prod := { s.prod with rspValid := false }
                 cons := { s.cons with rspValid := false } } ∧
      activePort (edge s) = p

/-- R94, R61: when THREAD_SAFE = 1, a port whose `cmd_ready` is 1 accepts the command presented on it: it holds it and is at
its first micro-step, and nothing else changes but the pulses of the last step. -/
def Obligations.ReadyPortAcceptsCommand : Prop :=
  ∀ (s : State) (x : Input) (rest : List Input) (p : PortId) (c : Command),
    Legal s → Safe s → s.cfg.threadSafe = true → s.inputs = x :: rest → x.cmd = some c →
    (p = match x.turn with | .producer => .prod | .consumer => .cons) →
    cmdReady s p = true → c.data < 2 ^ s.cfg.dataWidth →
    ∃ t, step s = .next t ∧
      portAt t p = { portAt s p with phase := .busy c 1 {}, rspValid := false } ∧
      (∀ q, q ≠ p → portAt t q = { portAt s q with rspValid := false }) ∧
      SameBuffer s t ∧ t.cfg = s.cfg ∧ t.modelFault = none ∧ t.inputs = rest

/-- R94, R232: `cmd_ready` is 1 exactly when the port has no accepted command and `rst` is 0, whatever the buffer holds. -/
def Obligations.CmdReadyIsIdleAndNotReset : Prop :=
  (∀ (s : State) (p : PortId) (x : Input) (rest : List Input), s.inputs = x :: rest →
    (cmdReady s p = true ↔ (portAt s p).phase = .idle ∧ x.rst = false)) ∧
  (∀ (s : State) (p : PortId) (h t : Nat) (m : Memory),
    cmdReady { s with head := h, tail := t, slots := m } p = cmdReady s p)

/-- R231, R230, R208: a step with `rst = 1` resets the block whatever it was doing, in every legal configuration: it aborts
held commands with no response, and clears neither the model fault record nor the response logs (R245). -/
def Obligations.ResetStepWinsOverEverything : Prop :=
  ∀ (s : State) (x : Input) (rest : List Input), Legal s → s.inputs = x :: rest → x.rst = true →
    ∃ t, step s = .next t ∧ t.cfg = s.cfg ∧ t.head = 0 ∧ t.tail = 0 ∧ (∀ a, slotAt t.slots a = none) ∧
      t.iters.length = s.cfg.nIter ∧ (∀ k, iterAt t k = { cursor := 0, remaining := 0 }) ∧
      (∀ p, portAt t p
        = { phase := .idle, rspValid := false
            rsp := { status := .ok, data := 0, count := 0, flag := false }, log := (portAt s p).log }) ∧
      t.modelFault = s.modelFault ∧ t.inputs = rest

/-- R35, R164, R233: what ResetState holds in every legal configuration, and the two outputs there. -/
def Obligations.ResetStateValues : Prop :=
  ∀ cfg : Config, badConfig cfg = none →
    (State.resetOf cfg).cfg = cfg ∧ (State.resetOf cfg).head = 0 ∧ (State.resetOf cfg).tail = 0 ∧
    (∀ a, slotAt (State.resetOf cfg).slots a = none) ∧
    (State.resetOf cfg).iters.length = cfg.nIter ∧
    (∀ k, iterAt (State.resetOf cfg) k = { cursor := 0, remaining := 0 }) ∧
    (∀ p, portAt (State.resetOf cfg) p
        = { phase := .idle, rspValid := false
            rsp := { status := .ok, data := 0, count := 0, flag := false }, log := [] }) ∧
    (State.resetOf cfg).modelFault = none ∧
    (∀ s : State, (resetBlock s).modelFault = s.modelFault) ∧
    emptyOutput (State.resetOf cfg) = true ∧ (fullOutput (State.resetOf cfg) = true ↔ cfg.capacity = 1)

/-- R209: a recorded model fault stays recorded. Without a reset the next step answers it; a reset keeps it; no command clears
it. That the step answers the fault is the model's choice (log entry 9). -/
def Obligations.ModelFaultIsSticky : Prop :=
  (∀ (s : State) (f : ModelFault), Legal s → s.modelFault = some f → (nextInput s).rst = false →
    step s = .fault (.modelFault f)) ∧
  (∀ (s t : State) (f : ModelFault), s.modelFault = some f → step s = .next t →
    t.modelFault = some f ∧ (nextInput s).rst = true) ∧
  (∀ (s t : State) (i : Instr) (f : ModelFault), s.modelFault = some f → exec i s = .next t → t.modelFault = some f)

/-- R209: the only two ways a command records a model fault. -/
def Obligations.ModelFaultsHaveTwoCauses : Prop :=
  ∀ (s t : State) (i : Instr) (f : ModelFault), Safe s → exec i s = .next t → t.modelFault = some f →
    (f = .clearRace ∧ i = .clear ∧ s.cfg.threadSafe = true ∧
      ∃ c j l, (portAt s (otherPort (activePort s))).phase = .busy c j l ∧ 2 ≤ j) ∨
    (f = .unwrittenSlotRead ∧
      (((i = .pop ∨ i = .peek) ∧ s.cfg.threadSafe = false ∧ s.tail ≠ s.head ∧ slotAt s.slots s.tail = none) ∨
        ((i = .pop ∨ i = .peek) ∧ ∃ c l a, AtMicro s c 3 l ∧ l.t = some a ∧ slotAt s.slots a = none) ∨
        ∃ k, i = .iterNext k ∧ (iterAt s k).remaining ≠ 0 ∧ slotAt s.slots (iterAt s k).cursor = none))

/-! ### What each command does -/

/-- R147: NOP answers OK and touches nothing else, in every state. -/
def Obligations.NopOnlyAnswersOk : Prop :=
  ∀ s : State, ∃ t, exec .nop s = .next t ∧ Answers { status := .ok } s t ∧ SameBuffer s t

/-- R121: PUSH when THREAD_SAFE = 0, with its frame. -/
def Obligations.PushWholeStep : Prop :=
  ∀ (s : State) (v : Nat), s.cfg.threadSafe = false → s.head < s.cfg.capacity → v < 2 ^ s.cfg.dataWidth →
    (advance s.cfg s.head ≠ s.tail →
      ∃ t, exec (.push v) s = .next t ∧ Answers { status := .ok } s t ∧
        t.head = advance s.cfg s.head ∧ t.tail = s.tail ∧
        slotAt t.slots s.head = some v ∧ SameStorageBut s.head s t ∧ t.iters = s.iters) ∧
    (advance s.cfg s.head = s.tail → s.cfg.overwriteOnFull = false →
      ∃ t, exec (.push v) s = .next t ∧ Answers { status := .bufferFull } s t ∧ SameBuffer s t) ∧
    (advance s.cfg s.head = s.tail → s.cfg.overwriteOnFull = true →
      ∃ t, exec (.push v) s = .next t ∧ Answers { status := .ok } s t ∧
        t.head = advance s.cfg s.head ∧ t.tail = advance s.cfg s.tail ∧
        slotAt t.slots s.head = some v ∧ SameStorageBut s.head s t ∧ t.iters = s.iters)

/-- R122: PUSH when THREAD_SAFE = 1, micro-step by micro-step, with frames. The slot is written at s3 and `head` published
at s4 (R63). -/
def Obligations.PushMicroSteps : Prop :=
  ∀ (s : State) (v : Nat) (c : Command) (l : Locals), s.turn = .producer →
    (AtMicro s c 1 l →
      ∃ t, exec (.push v) s = .next t ∧
        GoesOn c 1 { l with h := some s.head, n := some (advance s.cfg s.head) } s t ∧ SameBuffer s t) ∧
    (∀ n, AtMicro s c 2 l → l.n = some n → n = s.tail →
      ∃ t, exec (.push v) s = .next t ∧ Answers { status := .bufferFull } s t ∧ SameBuffer s t) ∧
    (∀ n, AtMicro s c 2 l → l.n = some n → n ≠ s.tail →
      ∃ t, exec (.push v) s = .next t ∧ GoesOn c 2 { l with t := some s.tail } s t ∧ SameBuffer s t) ∧
    (∀ h, AtMicro s c 3 l → l.h = some h → h < s.cfg.capacity → v < 2 ^ s.cfg.dataWidth →
      ∃ t, exec (.push v) s = .next t ∧ GoesOn c 3 l s t ∧ t.head = s.head ∧ t.tail = s.tail ∧
        slotAt t.slots h = some v ∧ SameStorageBut h s t ∧ t.iters = s.iters) ∧
    (∀ n, AtMicro s c 4 l → l.n = some n →
      ∃ t, exec (.push v) s = .next t ∧ Answers { status := .ok } s t ∧ t.head = n ∧ t.tail = s.tail ∧
        SameStorage s t ∧ t.iters = s.iters)

/-- R127, R14: POP when THREAD_SAFE = 0, with its frame. -/
def Obligations.PopWholeStep : Prop :=
  ∀ s : State, s.cfg.threadSafe = false → s.tail < s.cfg.capacity →
    (s.tail = s.head →
      ∃ t, exec .pop s = .next t ∧ Answers { status := .bufferEmpty } s t ∧ SameBuffer s t) ∧
    (∀ v, s.tail ≠ s.head → slotAt s.slots s.tail = some v →
      ∃ t, exec .pop s = .next t ∧ Answers { status := .ok, data := v } s t ∧
        t.head = s.head ∧ t.tail = advance s.cfg s.tail ∧ SameStorage s t ∧ t.iters = s.iters)

/-- R128: POP when THREAD_SAFE = 1, micro-step by micro-step, with frames. The slot is read at s3 and `tail` published at
s4 (R64). -/
def Obligations.PopMicroSteps : Prop :=
  ∀ (s : State) (c : Command) (l : Locals), s.turn = .consumer →
    (AtMicro s c 1 l →
      ∃ t, exec .pop s = .next t ∧ GoesOn c 1 { l with h := some s.head } s t ∧ SameBuffer s t) ∧
    (∀ h, AtMicro s c 2 l → l.h = some h → s.tail = h →
      ∃ t, exec .pop s = .next t ∧ Answers { status := .bufferEmpty } s t ∧ SameBuffer s t) ∧
    (∀ h, AtMicro s c 2 l → l.h = some h → s.tail ≠ h →
      ∃ t, exec .pop s = .next t ∧ GoesOn c 2 { l with t := some s.tail } s t ∧ SameBuffer s t) ∧
    (∀ t₀ v, AtMicro s c 3 l → l.t = some t₀ → t₀ < s.cfg.capacity → slotAt s.slots t₀ = some v →
      ∃ t, exec .pop s = .next t ∧ GoesOn c 3 { l with v := some v } s t ∧ SameBuffer s t) ∧
    (∀ t₀ v, AtMicro s c 4 l → l.t = some t₀ → l.v = some v →
      ∃ t, exec .pop s = .next t ∧ Answers { status := .ok, data := v } s t ∧
        t.head = s.head ∧ t.tail = advance s.cfg t₀ ∧ SameStorage s t ∧ t.iters = s.iters)

/-- R133, R14: PEEK when THREAD_SAFE = 0, with its frame. -/
def Obligations.PeekWholeStep : Prop :=
  ∀ s : State, s.cfg.threadSafe = false → s.tail < s.cfg.capacity →
    (s.tail = s.head →
      ∃ t, exec .peek s = .next t ∧ Answers { status := .bufferEmpty } s t ∧ SameBuffer s t) ∧
    (∀ v, s.tail ≠ s.head → slotAt s.slots s.tail = some v →
      ∃ t, exec .peek s = .next t ∧ Answers { status := .ok, data := v } s t ∧ SameBuffer s t)

/-- R134: PEEK when THREAD_SAFE = 1, micro-step by micro-step, with frames. -/
def Obligations.PeekMicroSteps : Prop :=
  ∀ (s : State) (c : Command) (l : Locals), s.turn = .consumer →
    (AtMicro s c 1 l →
      ∃ t, exec .peek s = .next t ∧ GoesOn c 1 { l with h := some s.head } s t ∧ SameBuffer s t) ∧
    (∀ h, AtMicro s c 2 l → l.h = some h → s.tail = h →
      ∃ t, exec .peek s = .next t ∧ Answers { status := .bufferEmpty } s t ∧ SameBuffer s t) ∧
    (∀ h, AtMicro s c 2 l → l.h = some h → s.tail ≠ h →
      ∃ t, exec .peek s = .next t ∧ GoesOn c 2 { l with t := some s.tail } s t ∧ SameBuffer s t) ∧
    (∀ t₀ v, AtMicro s c 3 l → l.t = some t₀ → t₀ < s.cfg.capacity → slotAt s.slots t₀ = some v →
      ∃ t, exec .peek s = .next t ∧ Answers { status := .ok, data := v } s t ∧ SameBuffer s t)

/-- R141: CLEAR when THREAD_SAFE = 0, with its frame: no slot is written and no iterator context changes. -/
def Obligations.ClearWholeStep : Prop :=
  ∀ s : State, s.cfg.threadSafe = false →
    ∃ t, exec .clear s = .next t ∧ Answers { status := .ok } s t ∧ t.head = 0 ∧ t.tail = 0 ∧
      SameStorage s t ∧ t.iters = s.iters

/-- R142: CLEAR when THREAD_SAFE = 1. With the other port quiescent, one micro-step sets both indices; with it in flight
the model fault ClearRace is recorded (as a next state: log entry 9), and neither the buffer nor any port changes. -/
def Obligations.ClearMicroStep : Prop :=
  ∀ s : State, s.cfg.threadSafe = true →
    ((¬∃ c j l, (portAt s (otherPort (activePort s))).phase = .busy c j l ∧ 2 ≤ j) →
      ∃ t, exec .clear s = .next t ∧ Answers { status := .ok } s t ∧ t.head = 0 ∧ t.tail = 0 ∧
        SameStorage s t ∧ t.iters = s.iters) ∧
    (∀ c j l, Safe s → (portAt s (otherPort (activePort s))).phase = .busy c j l → 2 ≤ j →
      exec .clear s = .next { s with modelFault := some .clearRace })

/-- R151: IS_EMPTY, whole and by micro-steps, with its frame. -/
def Obligations.IsEmptySteps : Prop :=
  ∀ (s : State),
    (s.cfg.threadSafe = false →
      ∃ t, exec .isEmpty s = .next t ∧ Answers { status := .ok, flag := s.head == s.tail } s t ∧ SameBuffer s t) ∧
    (∀ c l, AtMicro s c 1 l →
      ∃ t, exec .isEmpty s = .next t ∧ GoesOn c 1 { l with h := some s.head } s t ∧ SameBuffer s t) ∧
    (∀ c l h, AtMicro s c 2 l → l.h = some h →
      ∃ t, exec .isEmpty s = .next t ∧ Answers { status := .ok, flag := h == s.tail } s t ∧ SameBuffer s t)

/-- R155: IS_FULL, whole and by micro-steps, with its frame. -/
def Obligations.IsFullSteps : Prop :=
  ∀ (s : State),
    (s.cfg.threadSafe = false →
      ∃ t, exec .isFull s = .next t ∧ Answers { status := .ok, flag := advance s.cfg s.head == s.tail } s t ∧
        SameBuffer s t) ∧
    (∀ c l, AtMicro s c 1 l →
      ∃ t, exec .isFull s = .next t ∧ GoesOn c 1 { l with h := some s.head } s t ∧ SameBuffer s t) ∧
    (∀ c l h, AtMicro s c 2 l → l.h = some h →
      ∃ t, exec .isFull s = .next t ∧ Answers { status := .ok, flag := advance s.cfg h == s.tail } s t ∧
        SameBuffer s t)

/-- R159: LEN, whole and by micro-steps, with its frame. Its count always fits IW bits. -/
def Obligations.LenSteps : Prop :=
  ∀ (s : State),
    (s.cfg.threadSafe = false →
      ∃ t, exec .len s = .next t ∧ Answers { status := .ok, count := len s.cfg s.head s.tail } s t ∧
        SameBuffer s t) ∧
    (∀ c l, AtMicro s c 1 l →
      ∃ t, exec .len s = .next t ∧ GoesOn c 1 { l with h := some s.head } s t ∧ SameBuffer s t) ∧
    (∀ c l h, AtMicro s c 2 l → l.h = some h →
      ∃ t, exec .len s = .next t ∧ Answers { status := .ok, count := len s.cfg h s.tail } s t ∧ SameBuffer s t) ∧
    (∀ h, h < s.cfg.capacity → s.tail < s.cfg.capacity → len s.cfg h s.tail < 2 ^ indexWidth s.cfg)

/-- R172, R171: ITER_CREATE where it is admitted, whole and by micro-steps, with its frame: no other context changes. -/
def Obligations.IterCreateSteps : Prop :=
  ∀ (s : State) (k : CtxNum), k.toNat < s.cfg.nIter → s.iters.length = s.cfg.nIter → activePort s ≠ .prod →
    (s.cfg.threadSafe = false →
      ∃ t, exec (.iterCreate k) s = .next t ∧ Answers { status := .ok, count := len s.cfg s.head s.tail } s t ∧
        t.head = s.head ∧ t.tail = s.tail ∧ SameStorage s t ∧ t.iters.length = s.iters.length ∧
        iterAt t k = { cursor := s.tail, remaining := len s.cfg s.head s.tail } ∧
        ∀ k', k' ≠ k → iterAt t k' = iterAt s k') ∧
    (∀ c l, AtMicro s c 1 l →
      ∃ t, exec (.iterCreate k) s = .next t ∧ GoesOn c 1 { l with h := some s.head } s t ∧ SameBuffer s t) ∧
    (∀ c l h, AtMicro s c 2 l → l.h = some h →
      ∃ t, exec (.iterCreate k) s = .next t ∧ Answers { status := .ok, count := len s.cfg h s.tail } s t ∧
        t.head = s.head ∧ t.tail = s.tail ∧ SameStorage s t ∧ t.iters.length = s.iters.length ∧
        iterAt t k = { cursor := s.tail, remaining := len s.cfg h s.tail } ∧
        ∀ k', k' ≠ k → iterAt t k' = iterAt s k')

/-- R177: ITER_NEXT where it is admitted, in both configurations of THREAD_SAFE, with its frame. -/
def Obligations.IterNextStep : Prop :=
  ∀ (s : State) (k : CtxNum), k.toNat < s.cfg.nIter → s.iters.length = s.cfg.nIter → activePort s ≠ .prod →
    ((iterAt s k).remaining = 0 →
      ∃ t, exec (.iterNext k) s = .next t ∧ Answers { status := .iterDone } s t ∧ SameBuffer s t) ∧
    (∀ v, (iterAt s k).remaining ≠ 0 → (iterAt s k).cursor < s.cfg.capacity →
      slotAt s.slots (iterAt s k).cursor = some v →
      ∃ t, exec (.iterNext k) s = .next t ∧ Answers { status := .ok, data := v } s t ∧
        t.head = s.head ∧ t.tail = s.tail ∧ SameStorage s t ∧ t.iters.length = s.iters.length ∧
        iterAt t k = { cursor := advance s.cfg (iterAt s k).cursor, remaining := (iterAt s k).remaining - 1 } ∧
        ∀ k', k' ≠ k → iterAt t k' = iterAt s k')

/-! ### Rules of the whole machine -/

/-- Every step keeps the invariant of the block (R24, R30, R37 and what commands in progress rely on), in every legal
configuration, at every interleaving. -/
def Obligations.EveryStepKeepsInv : Prop :=
  ∀ s t : State, Inv s → step s = .next t → Inv t

/-- The invariant holds in ResetState of every legal configuration, and in `State.reset`. -/
def Obligations.ResetStateHasInv : Prop :=
  (∀ cfg : Config, badConfig cfg = none → Inv (State.resetOf cfg)) ∧ Inv State.reset

/-- R37, R52, R74, R210: in a legal configuration, from a state with the invariant and no model fault, every step answers a
next state; a slot that holds `⊥` is never read, and the only fault it can record is ClearRace. -/
def Obligations.NoStepIsStuck : Prop :=
  ∀ s : State, Inv s → Legal s → Safe s →
    ∃ t, step s = .next t ∧ t.modelFault ≠ some .unwrittenSlotRead

/-- R3: the tuple is an argument of the step relation. A run of a block is a run of the machine built with the block's tuple,
whose states do not hold it; and no command, whole or micro-step, leaves a block with another tuple. -/
def Obligations.StepRelationTakesTheTupleAsArgument : Prop :=
  ∀ (cfg : Config) (b : BlockState),
    (∀ n, Host.Core.run core n (b.withConfig cfg) = keepConfig cfg (Host.Core.run (machineOf cfg) n b)) ∧
    (∀ (i : Instr) (t : State), exec i (b.withConfig cfg) = .next t → ∃ b' : BlockState, t = b'.withConfig cfg)

/-- R3, R34: no step, and so no run, changes the configuration. -/
def Obligations.ConfigurationNeverChanges : Prop :=
  ∀ (n : Nat) (s t : State), Host.Core.run core n s = .next t → t.cfg = s.cfg

/-- R21: nothing but a reset makes a slot `⊥` again, and a reset makes every slot so. -/
def Obligations.OnlyResetUnwritesSlots : Prop :=
  ∀ s t : State, step s = .next t →
    ((nextInput s).rst = false → ∀ a, slotAt s.slots a ≠ none → slotAt t.slots a ≠ none) ∧
    ((nextInput s).rst = true → ∀ a, slotAt t.slots a = none)

/-- R65: index ownership when THREAD_SAFE = 1. -/
def Obligations.SingleWriterPerIndex : Prop :=
  ∀ (s t : State) (i : Instr), s.cfg.threadSafe = true → exec i s = .next t →
    (i ≠ .clear → t.head ≠ s.head → activePort s = .prod ∧ ∃ v, i = .push v) ∧
    (i ≠ .clear → t.tail ≠ s.tail → activePort s = .cons ∧ i = .pop) ∧
    (i = .clear → (t.head ≠ s.head ∨ t.tail ≠ s.tail) →
      ¬∃ c j l, (portAt s (otherPort (activePort s))).phase = .busy c j l ∧ 2 ≤ j)

/-- R56: which commands change which part of the buffer, and PEEK is idempotent. -/
def Obligations.OnlyTheseCommandsChangeState : Prop :=
  (∀ (s t : State) (i : Instr), exec i s = .next t →
    (t.slots ≠ s.slots → ∃ v, i = .push v) ∧
    (t.head ≠ s.head → i = .clear ∨ ∃ v, i = .push v) ∧
    (t.tail ≠ s.tail → i = .pop ∨ i = .clear ∨
      (s.cfg.threadSafe = false ∧ s.cfg.overwriteOnFull = true ∧ ∃ v, i = .push v)) ∧
    (∀ k, iterAt t k ≠ iterAt s k → i = .iterCreate k ∨ i = .iterNext k)) ∧
  (∀ s t u : State, s.cfg.threadSafe = false → exec .peek s = .next t → exec .peek t = .next u →
    u.main.rsp = t.main.rsp ∧ len u.cfg u.head u.tail = len s.cfg s.head s.tail)

/-- R206: a command that is answered with a status other than OK has no effect on any index, slot or context; and a command in
progress writes nothing before a micro-step from which it can still be refused. -/
def Obligations.FailedCommandHasNoEffect : Prop :=
  (∀ (s t : State) (i : Instr) (r : Response), exec i s = .next t →
    (portAt t (activePort s)).log = (portAt s (activePort s)).log ++ [r] → r.status ≠ .ok → SameBuffer s t) ∧
  (∀ (s t : State) (i : Instr) (c : Command) (j : Nat) (l l' : Locals), AtMicro s c j l → exec i s = .next t →
    (portAt t (activePort s)).phase = .busy c (j + 1) l' → ¬SameBuffer s t → j = 3 ∧ ∃ v, i = .push v) ∧
  (∀ (s t : State) (c : Command) (l : Locals) (v : Nat) (r : Response), s.turn = .producer → AtMicro s c 4 l →
    exec (.push v) s = .next t → (portAt t .prod).log = (portAt s .prod).log ++ [r] → r.status = .ok)

/-- R73, R74: a command adds at most one response, to its own port's log; when THREAD_SAFE = 0 it adds exactly one in its one
step, and when THREAD_SAFE = 1 each micro-step either answers or goes on to the next. -/
def Obligations.EachCommandAnswersOnceOnItsPort : Prop :=
  ∀ (s t : State) (i : Instr), exec i s = .next t →
    SameOtherPorts (activePort s) s t ∧
    (s.cfg.threadSafe = false → Safe s → Safe t → ∃ r, Answers r s t) ∧
    (∀ c j l, AtMicro s c j l → Safe s → Safe t → (∃ r, Answers r s t) ∨ ∃ l', GoesOn c j l' s t)

/-- R74: a command is never past its fourth micro-step, and with no command coming every port has answered after eight steps,
unless a CLEAR is held (which could race, R142). The order of those steps is the model's (log entry 6). -/
def Obligations.HeldCommandsFinishWithinEightSteps : Prop :=
  (∀ (s : State) (p : PortId) (c : Command) (j : Nat) (l : Locals), Inv s → (portAt s p).phase = .busy c j l →
    1 ≤ j ∧ j ≤ 4) ∧
  (∀ s : State, Inv s → Legal s → Safe s → s.inputs = [] →
    (∀ p c j l, (portAt s p).phase = .busy c j l → decode c ≠ .ok .clear) →
    ∃ t, Host.Core.run core 8 s = .next t ∧ runEnded t = true)

/-- R88, R90, R89: which statuses and which response fields each command can answer with. -/
def Obligations.ResponseFieldsOfEachCommand : Prop :=
  ∀ (s t : State) (i : Instr) (r : Response), exec i s = .next t →
    (portAt t (activePort s)).log = (portAt s (activePort s)).log ++ [r] →
    (admitted s.cfg (activePort s) i = false → r = { status := .illegal }) ∧
    (admitted s.cfg (activePort s) i = true →
      match i with
      | .nop => r = { status := .ok }
      | .push _ => r = { status := .ok } ∨ r = { status := .bufferFull }
      | .pop => (∃ v, r = { status := .ok, data := v }) ∨ r = { status := .bufferEmpty }
      | .peek => (∃ v, r = { status := .ok, data := v }) ∨ r = { status := .bufferEmpty }
      | .clear => r = { status := .ok }
      | .isEmpty => ∃ b, r = { status := .ok, flag := b }
      | .isFull => ∃ b, r = { status := .ok, flag := b }
      | .len => ∃ n, r = { status := .ok, count := n }
      | .iterCreate _ => ∃ n, r = { status := .ok, count := n }
      | .iterNext _ => (∃ v, r = { status := .ok, data := v }) ∨ r = { status := .iterDone }) ∧
    (statusCode r.status).toNat ≤ 4

/-- R25, R121, R127: first in, first out, when THREAD_SAFE = 0: what each command does to the logical contents and what it
answers. -/
def Obligations.FifoOrderOfWholeCommands : Prop :=
  ∀ s t : State, Inv s → s.cfg.threadSafe = false → Safe s →
    (∀ v, v < 2 ^ s.cfg.dataWidth → exec (.push v) s = .next t →
      (fullOutput s = false → contents t = contents s ++ [some v] ∧ t.main.rsp = { status := .ok }) ∧
      (fullOutput s = true → s.cfg.overwriteOnFull = false →
        contents t = contents s ∧ t.main.rsp = { status := .bufferFull }) ∧
      (fullOutput s = true → s.cfg.overwriteOnFull = true → 2 ≤ s.cfg.capacity →
        contents t = (contents s).tail ++ [some v] ∧ t.main.rsp = { status := .ok }) ∧
      (fullOutput s = true → s.cfg.overwriteOnFull = true → s.cfg.capacity = 1 →
        contents t = [] ∧ t.main.rsp = { status := .ok })) ∧
    (exec .pop s = .next t →
      (contents s = [] ∧ contents t = [] ∧ t.main.rsp = { status := .bufferEmpty }) ∨
        ∃ v, contents s = some v :: contents t ∧ t.main.rsp = { status := .ok, data := v }) ∧
    (exec .peek s = .next t → contents t = contents s ∧
      ((contents s = [] ∧ t.main.rsp = { status := .bufferEmpty }) ∨
        ∃ v rest, contents s = some v :: rest ∧ t.main.rsp = { status := .ok, data := v })) ∧
    (exec .clear s = .next t → contents t = []) ∧
    (∀ i, exec i s = .next t →
      i = .nop ∨ i = .isEmpty ∨ i = .isFull ∨ i = .len ∨ (∃ k, i = .iterCreate k) ∨ (∃ k, i = .iterNext k) →
      contents t = contents s)

/-- R25, R63, R64, R69: when THREAD_SAFE = 1, at every interleaving, the logical contents change only at the publishing
micro-steps: PUSH's s4 appends its operand, POP's s4 takes the oldest element and answers it, CLEAR empties. No other
micro-step changes them, PUSH's slot write among them. -/
def Obligations.ContentsChangeOnlyWhenPublished : Prop :=
  ∀ (s t : State) (c : Command) (j : Nat) (l : Locals) (i : Instr),
    Inv s → Safe s → AtMicro s c j l → decodeAt s.cfg (activePort s) c = some i → exec i s = .next t → Safe t →
    (∀ v, i = .push v → j = 4 → contents t = contents s ++ [some v]) ∧
    (i = .pop → j = 4 →
      ∃ v, contents s = some v :: contents t ∧ (portAt t .cons).rsp = { status := .ok, data := v }) ∧
    (i = .clear → contents t = []) ∧
    (¬((∃ v, i = .push v) ∧ j = 4) → ¬(i = .pop ∧ j = 4) → i ≠ .clear → contents t = contents s)

/-- R70: what the two ports' answers say of the buffer at the answering micro-step: exact on PROD, possibly behind on CONS. -/
def Obligations.AnswersAreExactOnProdAndMayLagOnCons : Prop :=
  ∀ (s t : State) (c : Command) (l : Locals) (i : Instr),
    Inv s → AtMicro s c 2 l → decodeAt s.cfg (activePort s) c = some i → exec i s = .next t →
    (s.turn = .producer →
      (i = .len → (portAt t .prod).rsp.count = len s.cfg s.head s.tail) ∧
      (i = .isEmpty → (portAt t .prod).rsp.flag = emptyOutput s) ∧
      (i = .isFull → (portAt t .prod).rsp.flag = fullOutput s) ∧
      (∀ v, i = .push v → (fullOutput s = true ↔ Answers { status := .bufferFull } s t))) ∧
    (s.turn = .consumer →
      (i = .len → (portAt t .cons).rsp.count ≤ len s.cfg s.head s.tail) ∧
      (i = .isEmpty → emptyOutput s = true → (portAt t .cons).rsp.flag = true) ∧
      (i = .isFull → (portAt t .cons).rsp.flag = true → fullOutput s = true) ∧
      (i = .pop ∨ i = .peek → emptyOutput s = true → Answers { status := .bufferEmpty } s t) ∧
      (∀ k, i = .iterCreate k → (portAt t .cons).rsp.count ≤ len s.cfg s.head s.tail))

/-- R122, R128, R134, R142, R151 to R177 against their THREAD_SAFE = 0 forms: a command whose micro-steps run with none of the
other port's between them, and the other port not in flight, does to the buffer what the one indivisible step of THREAD_SAFE
= 0 does, and answers the same. -/
def Obligations.UninterruptedMicroStepsEqualWholeStep : Prop :=
  ∀ (s : State) (d : Side) (p : PortId) (c : Command) (l : Locals) (i : Instr),
    Inv s → Legal s → Safe s → s.cfg.threadSafe = true →
    (p = match d with | .producer => .prod | .consumer => .cons) →
    (portAt s p).phase = .busy c 1 l → decodeAt s.cfg p c = some i → inFlight (portAt s (otherPort p)) = false →
    s.inputs = List.replicate 4 { rst := false, turn := d, cmd := none } →
    ∃ t u r, Host.Core.run core 4 s = .next t ∧
      exec i { s with cfg := { s.cfg with threadSafe := false } } = .next u ∧
      t.head = u.head ∧ t.tail = u.tail ∧ SameStorage u t ∧ t.iters = u.iters ∧
      (portAt t p).phase = .idle ∧ (portAt t p).log = (portAt s p).log ++ [r] ∧
      u.main.log = s.main.log ++ [r] ∧ Safe t

/-- R181, R182: ITER_CREATE captures the logical contents; ITER_NEXT yields what is left in order, as the slots stand then;
and when THREAD_SAFE = 0 no other command changes what is left, unless it is a PUSH whose slot is still to come. -/
def Obligations.IteratorYieldsItsRange : Prop :=
  (∀ (s t : State) (k : CtxNum), Inv s → s.cfg.threadSafe = false → k.toNat < s.cfg.nIter →
    exec (.iterCreate k) s = .next t → iterContents t k = contents s) ∧
  (∀ (s t : State) (k : CtxNum), Inv s → Safe s → k.toNat < s.cfg.nIter → activePort s ≠ .prod →
    (iterAt s k).remaining ≠ 0 → exec (.iterNext k) s = .next t →
    ∃ v, iterContents s k = some v :: iterContents t k ∧
      (portAt t (activePort s)).rsp = { status := .ok, data := v }) ∧
  (∀ (s t : State) (k : CtxNum) (i : Instr), s.cfg.threadSafe = false → exec i s = .next t →
    i ≠ .iterCreate k → i ≠ .iterNext k →
    ((∃ v, i = .push v) → ∀ j < (iterAt s k).remaining, ((iterAt s k).cursor + j) % s.cfg.capacity ≠ s.head) →
    iterContents t k = iterContents s k)

/-- R181, first case: when THREAD_SAFE = 0 and OVERWRITE_ON_FULL = 0, an iterator whose range lies in the logical range keeps
what it has to yield, and keeps lying there, through every command but POP, CLEAR and those on its own context. -/
def Obligations.SnapshotSurvivesPushesWithoutPop : Prop :=
  ∀ (s t : State) (k : CtxNum) (i : Instr) (d : Nat),
    Inv s → s.cfg.threadSafe = false → s.cfg.overwriteOnFull = false → k.toNat < s.cfg.nIter →
    (iterAt s k).cursor = (s.tail + d) % s.cfg.capacity →
    d + (iterAt s k).remaining ≤ len s.cfg s.head s.tail →
    i ≠ .pop → i ≠ .clear → i ≠ .iterCreate k → i ≠ .iterNext k → exec i s = .next t →
    iterContents t k = iterContents s k ∧
    (iterAt t k).cursor = (t.tail + d) % t.cfg.capacity ∧
    d + (iterAt t k).remaining ≤ len t.cfg t.head t.tail

/-- R130, R124 with conflict C8: PUSH then POP, THREAD_SAFE = 0: the length is restored whenever the PUSH was OK and dropped
nothing, and the value comes back when the buffer was empty and has room. -/
def Obligations.PushThenPopRoundTrip : Prop :=
  ∀ (s t u : State) (v : Nat), Inv s → s.cfg.threadSafe = false → v < 2 ^ s.cfg.dataWidth → fullOutput s = false →
    exec (.push v) s = .next t → exec .pop t = .next u →
    len u.cfg u.head u.tail = len s.cfg s.head s.tail ∧
    (emptyOutput s = true → u.main.rsp = { status := .ok, data := v })
end

