-- ==== Sys2Proof/Laws/Memory.lean ====
section
/-! SUPPORT. The storage: read after write, and the canonical form is kept by every operation. -/

namespace Sys2Proof.Machine

/-- A read of the slot just written gives the value written (R62). -/
@[simp] theorem slotAt_setSlot_same (m : Memory) (a : Nat) (v : Nat) : slotAt (setSlot m a v) a = some v := by
  induction m with
  | nil => simp [setSlot, slotAt]
  | cons x rest ih =>
    obtain ⟨b, w⟩ := x
    unfold setSlot
    split
    · simp [slotAt]
    · split
      · simp [slotAt]
      · rename_i _ hab
        simp [slotAt, Ne.symm hab, ih]

/-- A write leaves every other slot alone. -/
theorem slotAt_setSlot_other (m : Memory) {a c : Nat} (v : Nat) (h : c ≠ a) :
    slotAt (setSlot m a v) c = slotAt m c := by
  induction m with
  | nil => simp [setSlot, slotAt, Ne.symm h]
  | cons x rest ih =>
    obtain ⟨b, w⟩ := x
    unfold setSlot
    split
    · simp [slotAt, Ne.symm h]
    · split
      · rename_i _ hab
        subst hab
        simp [slotAt, Ne.symm h]
      · simp [slotAt, ih]

/-- Writing above a bound keeps the rising order above it. -/
theorem risingFrom_setSlot (m : Memory) {a b : Nat} (v : Nat) (hb : b < a) (h : risingFrom b m = true) :
    risingFrom b (setSlot m a v) = true := by
  induction m generalizing b with
  | nil => simp [setSlot, risingFrom, hb]
  | cons x rest ih =>
    obtain ⟨d, w⟩ := x
    simp only [risingFrom, Bool.and_eq_true, decide_eq_true_eq] at h
    unfold setSlot
    split
    · rename_i had
      simp [risingFrom, hb, had, h.2]
    · split
      · rename_i _ had
        subst had
        simp [risingFrom, hb, h.2]
      · rename_i hlt hne
        simp [risingFrom, h.1, ih (by omega) h.2]

/-- A write keeps the canonical form. -/
theorem memoryWf_setSlot (m : Memory) (a : Nat) (v : Nat) (h : memoryWf m = true) :
    memoryWf (setSlot m a v) = true := by
  cases m with
  | nil => simp [setSlot, memoryWf, risingFrom]
  | cons x rest =>
    obtain ⟨b, w⟩ := x
    simp only [memoryWf] at h
    unfold setSlot
    split
    · rename_i hab
      simp [memoryWf, risingFrom, hab, h]
    · split
      · rename_i _ hab
        subst hab
        simpa [memoryWf] using h
      · simpa [memoryWf] using risingFrom_setSlot rest v (by omega) h

/-- Every entry after a write is the one written or an old one. -/
theorem mem_setSlot {m : Memory} {a : Nat} {v : Nat} {x : Nat × Nat} (h : x ∈ setSlot m a v) :
    x = (a, v) ∨ x ∈ m := by
  induction m with
  | nil => exact .inl (by simpa [setSlot] using h)
  | cons y rest ih =>
    obtain ⟨b, w⟩ := y
    unfold setSlot at h
    split at h
    · simpa using h
    · split at h
      · obtain h | h := List.mem_cons.1 h
        · exact .inl h
        · exact .inr (List.mem_cons_of_mem _ h)
      · obtain h | h := List.mem_cons.1 h
        · exact .inr (by simp [h])
        · exact (ih h).imp_right (List.mem_cons_of_mem _)

/-- A value read is a listed entry. -/
theorem mem_of_slotAt {m : Memory} {a : Nat} {v : Nat} (h : slotAt m a = some v) : (a, v) ∈ m := by
  induction m with
  | nil => simp [slotAt] at h
  | cons x rest ih =>
    obtain ⟨b, w⟩ := x
    unfold slotAt at h
    split at h
    · rename_i hb
      cases h
      simp [hb]
    · exact List.mem_cons_of_mem _ (ih h)

/-- A value cut to W bits fits W bits. -/
theorem fitWidth_lt (cfg : Config) (v : Nat) : fitWidth cfg v < 2 ^ cfg.dataWidth :=
  Nat.mod_lt _ (Nat.two_pow_pos _)

/-- A value that fits is not cut. -/
theorem fitWidth_of_lt {cfg : Config} {v : Nat} (h : v < 2 ^ cfg.dataWidth) : fitWidth cfg v = v :=
  Nat.mod_eq_of_lt h

/-- The storage after reset is in canonical form, in every configuration. -/
theorem memoryWf_resetOf (cfg : Config) : memoryWf (State.resetOf cfg).slots = true := rfl

/-- The storage of `State.reset` is in canonical form. -/
theorem memoryWf_reset : memoryWf State.reset.slots = true := rfl

end Sys2Proof.Machine
end

