-- ==== Sys2Proof/Laws/State.lean ====
section
/-! SUPPORT. One lemma per field per update, so that no later proof unfolds a record update. -/

namespace Sys2Proof.Machine

section WithConfig
variable (b : BlockState) (cfg : Config) (s : State)

@[simp] theorem withConfig_cfg : (b.withConfig cfg).cfg = cfg := rfl
@[simp] theorem withConfig_toBlockState : (b.withConfig cfg).toBlockState = b := rfl
@[simp] theorem toBlockState_withConfig : s.toBlockState.withConfig s.cfg = s := rfl
@[simp] theorem resetOf_cfg : (State.resetOf cfg).cfg = cfg := rfl
@[simp] theorem resetOf_toBlockState : (State.resetOf cfg).toBlockState = BlockState.resetOf cfg := rfl

end WithConfig

section SetPort
variable (s : State) (p q : PortId) (x : PortState)

@[simp] theorem setPort_cfg : (setPort s p x).cfg = s.cfg := by cases p <;> rfl
@[simp] theorem setPort_head : (setPort s p x).head = s.head := by cases p <;> rfl
@[simp] theorem setPort_tail : (setPort s p x).tail = s.tail := by cases p <;> rfl
@[simp] theorem setPort_slots : (setPort s p x).slots = s.slots := by cases p <;> rfl
@[simp] theorem setPort_iters : (setPort s p x).iters = s.iters := by cases p <;> rfl
@[simp] theorem setPort_modelFault : (setPort s p x).modelFault = s.modelFault := by cases p <;> rfl
@[simp] theorem setPort_turn : (setPort s p x).turn = s.turn := by cases p <;> rfl
@[simp] theorem setPort_inputs : (setPort s p x).inputs = s.inputs := by cases p <;> rfl
@[simp] theorem portAt_setPort_same : portAt (setPort s p x) p = x := by cases p <;> rfl
theorem portAt_setPort_other (h : q ≠ p) : portAt (setPort s p x) q = portAt s q := by
  cases p <;> cases q <;> first | rfl | exact absurd rfl h
@[simp] theorem activePort_setPort : activePort (setPort s p x) = activePort s := by cases p <;> rfl

end SetPort

section StoreIdx
variable (s : State) (r : IndexReg) (v : Nat) (p : PortId)

@[simp] theorem storeIdx_cfg : (storeIdx r v s).cfg = s.cfg := by cases r <;> rfl
@[simp] theorem storeIdx_slots : (storeIdx r v s).slots = s.slots := by cases r <;> rfl
@[simp] theorem storeIdx_iters : (storeIdx r v s).iters = s.iters := by cases r <;> rfl
@[simp] theorem storeIdx_main : (storeIdx r v s).main = s.main := by cases r <;> rfl
@[simp] theorem storeIdx_prod : (storeIdx r v s).prod = s.prod := by cases r <;> rfl
@[simp] theorem storeIdx_cons : (storeIdx r v s).cons = s.cons := by cases r <;> rfl
@[simp] theorem storeIdx_modelFault : (storeIdx r v s).modelFault = s.modelFault := by cases r <;> rfl
@[simp] theorem storeIdx_turn : (storeIdx r v s).turn = s.turn := by cases r <;> rfl
@[simp] theorem storeIdx_inputs : (storeIdx r v s).inputs = s.inputs := by cases r <;> rfl
@[simp] theorem storeIdx_head_head : (storeIdx .head v s).head = v := rfl
@[simp] theorem storeIdx_head_tail : (storeIdx .head v s).tail = s.tail := rfl
@[simp] theorem storeIdx_tail_head : (storeIdx .tail v s).head = s.head := rfl
@[simp] theorem storeIdx_tail_tail : (storeIdx .tail v s).tail = v := rfl
@[simp] theorem portAt_storeIdx : portAt (storeIdx r v s) p = portAt s p := by cases r <;> rfl
@[simp] theorem activePort_storeIdx : activePort (storeIdx r v s) = activePort s := by cases r <;> rfl
@[simp] theorem loadIdx_head : loadIdx .head s = s.head := rfl
@[simp] theorem loadIdx_tail : loadIdx .tail s = s.tail := rfl

end StoreIdx

section SetIter
variable (s : State) (k : CtxNum) (x : IterCtx) (p : PortId)

@[simp] theorem setIter_cfg : (setIter s k x).cfg = s.cfg := rfl
@[simp] theorem setIter_head : (setIter s k x).head = s.head := rfl
@[simp] theorem setIter_tail : (setIter s k x).tail = s.tail := rfl
@[simp] theorem setIter_slots : (setIter s k x).slots = s.slots := rfl
@[simp] theorem setIter_iters : (setIter s k x).iters = s.iters.set k.toNat x := rfl
@[simp] theorem setIter_modelFault : (setIter s k x).modelFault = s.modelFault := rfl
@[simp] theorem setIter_turn : (setIter s k x).turn = s.turn := rfl
@[simp] theorem setIter_inputs : (setIter s k x).inputs = s.inputs := rfl
@[simp] theorem portAt_setIter : portAt (setIter s k x) p = portAt s p := by cases p <;> rfl
@[simp] theorem activePort_setIter : activePort (setIter s k x) = activePort s := rfl

end SetIter

section WithSlots
variable (s : State) (m : Memory) (p : PortId)

@[simp] theorem portAt_withSlots : portAt { s with slots := m } p = portAt s p := by cases p <;> rfl
@[simp] theorem activePort_withSlots : activePort { s with slots := m } = activePort s := rfl

end WithSlots

section Respond
variable (s : State) (r : Response)

@[simp] theorem respond_cfg : (respond r s).cfg = s.cfg := setPort_cfg ..
@[simp] theorem respond_head : (respond r s).head = s.head := setPort_head ..
@[simp] theorem respond_tail : (respond r s).tail = s.tail := setPort_tail ..
@[simp] theorem respond_slots : (respond r s).slots = s.slots := setPort_slots ..
@[simp] theorem respond_iters : (respond r s).iters = s.iters := setPort_iters ..
@[simp] theorem respond_modelFault : (respond r s).modelFault = s.modelFault := setPort_modelFault ..
@[simp] theorem respond_turn : (respond r s).turn = s.turn := setPort_turn ..
@[simp] theorem respond_inputs : (respond r s).inputs = s.inputs := setPort_inputs ..
@[simp] theorem activePort_respond : activePort (respond r s) = activePort s := activePort_setPort ..
@[simp] theorem portAt_respond_active :
    portAt (respond r s) (activePort s) = answerOn r (portAt s (activePort s)) := portAt_setPort_same ..
theorem portAt_respond_other {q : PortId} (h : q ≠ activePort s) : portAt (respond r s) q = portAt s q :=
  portAt_setPort_other _ _ _ _ h

end Respond

section ContinueWith
variable (s : State) (l : Locals)

/-- In a busy port's state, going on is one port update. -/
theorem continueWith_busy {c : Command} {j : Nat} {l₀ : Locals}
    (h : (portAt s (activePort s)).phase = .busy c j l₀) :
    continueWith l s = setPort s (activePort s) { portAt s (activePort s) with phase := .busy c (j + 1) l } := by
  simp [continueWith, h]

/-- On an idle port there is nothing to go on with. -/
theorem continueWith_idle (h : (portAt s (activePort s)).phase = .idle) : continueWith l s = s := by
  simp [continueWith, h]

/-- Going on is one port update, or nothing. -/
theorem continueWith_cases : continueWith l s = s ∨ ∃ x, continueWith l s = setPort s (activePort s) x := by
  cases h : (portAt s (activePort s)).phase with
  | idle => exact .inl (continueWith_idle s l h)
  | busy c j l₀ => exact .inr ⟨_, continueWith_busy s l h⟩

@[simp] theorem continueWith_cfg : (continueWith l s).cfg = s.cfg := by
  obtain h | ⟨x, h⟩ := continueWith_cases s l <;> simp [h]
@[simp] theorem continueWith_head : (continueWith l s).head = s.head := by
  obtain h | ⟨x, h⟩ := continueWith_cases s l <;> simp [h]
@[simp] theorem continueWith_tail : (continueWith l s).tail = s.tail := by
  obtain h | ⟨x, h⟩ := continueWith_cases s l <;> simp [h]
@[simp] theorem continueWith_slots : (continueWith l s).slots = s.slots := by
  obtain h | ⟨x, h⟩ := continueWith_cases s l <;> simp [h]
@[simp] theorem continueWith_iters : (continueWith l s).iters = s.iters := by
  obtain h | ⟨x, h⟩ := continueWith_cases s l <;> simp [h]
@[simp] theorem continueWith_modelFault : (continueWith l s).modelFault = s.modelFault := by
  obtain h | ⟨x, h⟩ := continueWith_cases s l <;> simp [h]
@[simp] theorem continueWith_turn : (continueWith l s).turn = s.turn := by
  obtain h | ⟨x, h⟩ := continueWith_cases s l <;> simp [h]
@[simp] theorem continueWith_inputs : (continueWith l s).inputs = s.inputs := by
  obtain h | ⟨x, h⟩ := continueWith_cases s l <;> simp [h]
theorem portAt_continueWith_other {q : PortId} (hq : q ≠ activePort s) :
    portAt (continueWith l s) q = portAt s q := by
  obtain h | ⟨x, h⟩ := continueWith_cases s l <;> simp [h, portAt_setPort_other _ _ _ _ hq]

end ContinueWith

section RecordFault
variable (s : State) (f : ModelFault) (p : PortId)

/-- Recording a fault sets the record or, where one stands, does nothing. -/
theorem recordFault_cases : recordFault f s = s ∨ recordFault f s = { s with modelFault := some f } := by
  unfold recordFault; split <;> simp

@[simp] theorem recordFault_cfg : (recordFault f s).cfg = s.cfg := by
  obtain h | h := recordFault_cases s f <;> simp [h]
@[simp] theorem recordFault_head : (recordFault f s).head = s.head := by
  obtain h | h := recordFault_cases s f <;> simp [h]
@[simp] theorem recordFault_tail : (recordFault f s).tail = s.tail := by
  obtain h | h := recordFault_cases s f <;> simp [h]
@[simp] theorem recordFault_slots : (recordFault f s).slots = s.slots := by
  obtain h | h := recordFault_cases s f <;> simp [h]
@[simp] theorem recordFault_iters : (recordFault f s).iters = s.iters := by
  obtain h | h := recordFault_cases s f <;> simp [h]
@[simp] theorem recordFault_turn : (recordFault f s).turn = s.turn := by
  obtain h | h := recordFault_cases s f <;> simp [h]
@[simp] theorem recordFault_inputs : (recordFault f s).inputs = s.inputs := by
  obtain h | h := recordFault_cases s f <;> simp [h]
@[simp] theorem portAt_recordFault : portAt (recordFault f s) p = portAt s p := by
  obtain h | h := recordFault_cases s f <;> cases p <;> simp [h, portAt]
/-- After it a fault is recorded. -/
theorem recordFault_ne_none : (recordFault f s).modelFault ≠ none := by
  unfold recordFault; split <;> simp_all

end RecordFault

end Sys2Proof.Machine
end

