-- ==== Sys2Proof/Laws/Ops.lean ====
section
/-! SUPPORT. One lemma per shared operation: everything it can do, if it answers a next state. -/

namespace Sys2Proof.Machine

/-- A slot read that goes on has read a value, or has recorded UnwrittenSlotRead. -/
theorem memRead_next {i : Nat} {s t : State} {k : Nat → Result} (h : memRead i s k = .next t) :
    (∃ v, i < s.cfg.capacity ∧ slotAt s.slots i = some v ∧ k v = .next t) ∨
      (slotAt s.slots i = none ∧ t = recordFault .unwrittenSlotRead s) := by
  unfold memRead at h
  split at h
  · rename_i hi
    split at h
    · rename_i v hv
      exact .inl ⟨v, hi, hv, h⟩
    · rename_i hv
      exact .inr ⟨hv, by injection h with h; exact h.symm⟩
  · cases h

/-- A slot read of a value goes on with it. -/
theorem memRead_some {i : Nat} {s : State} {v : Nat} (k : Nat → Result) (hi : i < s.cfg.capacity)
    (hv : slotAt s.slots i = some v) : memRead i s k = k v := by simp [memRead, hi, hv]

/-- A slot write that goes on has written exactly slot `i`. -/
theorem memWrite_next {i : Nat} {v : Nat} {s t : State} {k : State → Result} (h : memWrite i v s k = .next t) :
    i < s.cfg.capacity ∧ k { s with slots := setSlot s.slots i (fitWidth s.cfg v) } = .next t := by
  unfold memWrite at h
  split at h
  · rename_i hi
    exact ⟨hi, h⟩
  · cases h

/-- A slot write in range goes on. -/
theorem memWrite_lt {i : Nat} {v : Nat} {s : State} (k : State → Result) (hi : i < s.cfg.capacity) :
    memWrite i v s k = k { s with slots := setSlot s.slots i (fitWidth s.cfg v) } := by simp [memWrite, hi]

/-- A meaning behind the admission check ran, or was answered ILLEGAL. -/
theorem whenAdmitted_next {i : Instr} {s t : State} {k : Result} (h : whenAdmitted i s k = .next t) :
    (admitted s.cfg (activePort s) i = true ∧ k = .next t) ∨
      (admitted s.cfg (activePort s) i = false ∧ t = respondIllegal s) := by
  unfold whenAdmitted at h
  split at h
  · rename_i ha
    exact .inl ⟨ha, h⟩
  · rename_i ha
    exact .inr ⟨by simpa using ha, by injection h with h; exact h.symm⟩

/-- A micro-step that goes on was that of a busy port. -/
theorem microStep_next {s t : State} {k : Nat → Locals → Result} (h : microStep s k = .next t) :
    ∃ c j l, (portAt s (activePort s)).phase = .busy c j l ∧ k j l = .next t := by
  unfold microStep at h
  split at h
  · cases h
  · rename_i c j l hp
    exact ⟨c, j, l, hp, h⟩

/-- The micro-step of a busy port. -/
theorem microStep_busy {s : State} {c : Command} {j : Nat} {l : Locals} (k : Nat → Locals → Result)
    (h : (portAt s (activePort s)).phase = .busy c j l) : microStep s k = k j l := by simp [microStep, h]

/-- Reading a local that goes on found it set. -/
theorem withLocal_next {α : Type} {x : Option α} {k : α → Result} {t : State} (h : withLocal x k = .next t) :
    ∃ a, x = some a ∧ k a = .next t := by
  cases x with
  | none => cases h
  | some a => exact ⟨a, rfl, h⟩

/-- What the shape of the queries and ITER_CREATE can do: the whole command, micro-step s1, or micro-step s2. -/
theorem loadBoth_next {s t : State} {fin : Nat → Nat → State → State} (h : loadBoth s fin = .next t) :
    (s.cfg.threadSafe = false ∧ t = fin s.head s.tail s) ∨
      ∃ c l, s.cfg.threadSafe = true ∧
        (((portAt s (activePort s)).phase = .busy c 1 l ∧ t = continueWith { l with h := some s.head } s) ∨
          ∃ h, (portAt s (activePort s)).phase = .busy c 2 l ∧ l.h = some h ∧ t = fin h s.tail s) := by
  unfold loadBoth at h
  split at h
  · rename_i hts
    obtain ⟨c, j, l, hp, hk⟩ := microStep_next h
    refine .inr ⟨c, l, hts, ?_⟩
    split at hk
    · injection hk with hk
      exact .inl ⟨hp, hk.symm⟩
    · obtain ⟨h', hl, hk⟩ := withLocal_next hk
      injection hk with hk
      exact .inr ⟨h', hp, hl, hk.symm⟩
    · cases hk
  · rename_i hts
    injection h with h
    exact .inl ⟨by simpa using hts, h.symm⟩

/-- What a step can do when it answers a next state: a reset, nothing, an acceptance, an ILLEGAL answer, or the decoded
command's meaning. All but the reset start from a state with no model fault. -/
theorem takeStep_next {s t : State} (h : takeStep s = .next t) :
    badConfig s.cfg = none ∧
      ((selectAction (nextInput s) (edge s) = .reset ∧ t = resetBlock (edge s)) ∨
        (s.modelFault = none ∧
          ((selectAction (nextInput s) (edge s) = .idle ∧ t = edge s) ∨
            (∃ c, selectAction (nextInput s) (edge s) = .accept c ∧
              t = acceptOn (activePort (edge s)) c (edge s)) ∨
            (∃ c e, selectAction (nextInput s) (edge s) = .run c ∧ decode c = .error e ∧
              t = respondIllegal (edge s)) ∨
            (∃ c i, selectAction (nextInput s) (edge s) = .run c ∧ decode c = .ok i ∧
              exec i (edge s) = .next t)))) := by
  unfold takeStep at h
  split at h
  · cases h
  · rename_i hc
    refine ⟨hc, ?_⟩
    split at h
    · rename_i ha
      injection h with h
      exact .inl ⟨ha, h.symm⟩
    · rename_i ha hf
      injection h with h
      exact .inr ⟨hf, .inl ⟨ha, h.symm⟩⟩
    · rename_i c ha hf
      injection h with h
      exact .inr ⟨hf, .inr (.inl ⟨c, ha, h.symm⟩)⟩
    · rename_i c ha hf
      refine .inr ⟨hf, .inr (.inr ?_)⟩
      unfold runCommand at h
      split at h
      · rename_i e he
        injection h with h
        exact .inl ⟨c, e, ha, he, h.symm⟩
      · rename_i i hi
        exact .inr ⟨c, i, ha, hi, h⟩
    · cases h
    · cases h
    · cases h

/-- A meaning behind the admission check keeps the tuple if it does so where it is admitted. -/
theorem whenAdmitted_cfg {i : Instr} {s t : State} {k : Result} (hk : k = .next t → t.cfg = s.cfg)
    (h : whenAdmitted i s k = .next t) : t.cfg = s.cfg := by
  obtain ⟨-, h⟩ | ⟨-, rfl⟩ := whenAdmitted_next h
  · exact hk h
  · exact respond_cfg ..

/-- A slot read keeps the tuple if what follows it does. -/
theorem memRead_cfg {i : Nat} {s t : State} {k : Nat → Result} (hk : ∀ v, k v = .next t → t.cfg = s.cfg)
    (h : memRead i s k = .next t) : t.cfg = s.cfg := by
  obtain ⟨v, -, -, h⟩ | ⟨-, rfl⟩ := memRead_next h
  · exact hk v h
  · exact recordFault_cfg ..

/-- The queries and ITER_CREATE keep the tuple if their last micro-step does. -/
theorem loadBoth_cfg {s t : State} {fin : Nat → Nat → State → State} (hfin : ∀ a b, (fin a b s).cfg = s.cfg)
    (h : loadBoth s fin = .next t) : t.cfg = s.cfg := by
  obtain ⟨-, rfl⟩ | ⟨c, l, -, ⟨-, rfl⟩ | ⟨h', -, -, rfl⟩⟩ := loadBoth_next h <;> simp [hfin]

theorem pushWhole_cfg {v : Nat} {s t : State} (h : pushWhole v s = .next t) : t.cfg = s.cfg := by
  simp only [pushWhole] at h
  split at h
  · split at h
    · obtain ⟨-, h⟩ := memWrite_next h
      cases h; simp
    · cases h; simp
  · obtain ⟨-, h⟩ := memWrite_next h
    cases h; simp

theorem pushMicro_cfg {v : Nat} {s t : State} (h : pushMicro v s = .next t) : t.cfg = s.cfg := by
  obtain ⟨c, j, l, -, h⟩ := microStep_next h
  split at h
  · cases h; simp
  · obtain ⟨n, -, h⟩ := withLocal_next h
    dsimp only at h
    split at h <;> cases h <;> simp
  · obtain ⟨n, -, h⟩ := withLocal_next h
    obtain ⟨-, h⟩ := memWrite_next h
    cases h; simp
  · obtain ⟨n, -, h⟩ := withLocal_next h
    cases h; simp
  · cases h

theorem popWhole_cfg {s t : State} (h : popWhole s = .next t) : t.cfg = s.cfg := by
  simp only [popWhole] at h
  split at h
  · cases h; simp
  · exact memRead_cfg (fun v h => by cases h; simp) h

theorem popMicro_cfg {s t : State} (h : popMicro s = .next t) : t.cfg = s.cfg := by
  obtain ⟨c, j, l, -, h⟩ := microStep_next h
  split at h
  · cases h; simp
  · obtain ⟨n, -, h⟩ := withLocal_next h
    dsimp only at h
    split at h <;> cases h <;> simp
  · obtain ⟨n, -, h⟩ := withLocal_next h
    exact memRead_cfg (fun v h => by cases h; simp) h
  · obtain ⟨n, -, h⟩ := withLocal_next h
    obtain ⟨v, -, h⟩ := withLocal_next h
    cases h; simp
  · cases h

theorem peekWhole_cfg {s t : State} (h : peekWhole s = .next t) : t.cfg = s.cfg := by
  simp only [peekWhole] at h
  split at h
  · cases h; simp
  · exact memRead_cfg (fun v h => by cases h; simp) h

theorem peekMicro_cfg {s t : State} (h : peekMicro s = .next t) : t.cfg = s.cfg := by
  obtain ⟨c, j, l, -, h⟩ := microStep_next h
  split at h
  · cases h; simp
  · obtain ⟨n, -, h⟩ := withLocal_next h
    dsimp only at h
    split at h <;> cases h <;> simp
  · obtain ⟨n, -, h⟩ := withLocal_next h
    exact memRead_cfg (fun v h => by cases h; simp) h
  · cases h

/-- No meaning writes the tuple. -/
theorem exec_cfg {i : Instr} {s t : State} (h : exec i s = .next t) : t.cfg = s.cfg := by
  cases i with
  | nop => simp only [exec, execNop] at h; exact whenAdmitted_cfg (fun h => by cases h; simp) h
  | push v =>
    simp only [exec, execPush] at h
    exact whenAdmitted_cfg (fun h => by split at h; exacts [pushMicro_cfg h, pushWhole_cfg h]) h
  | pop =>
    simp only [exec, execPop] at h
    exact whenAdmitted_cfg (fun h => by split at h; exacts [popMicro_cfg h, popWhole_cfg h]) h
  | peek =>
    simp only [exec, execPeek] at h
    exact whenAdmitted_cfg (fun h => by split at h; exacts [peekMicro_cfg h, peekWhole_cfg h]) h
  | clear =>
    simp only [exec, execClear] at h
    exact whenAdmitted_cfg (fun h => by split at h <;> cases h <;> simp) h
  | isEmpty => simp only [exec, execIsEmpty] at h; exact whenAdmitted_cfg (loadBoth_cfg fun _ _ => by simp) h
  | isFull => simp only [exec, execIsFull] at h; exact whenAdmitted_cfg (loadBoth_cfg fun _ _ => by simp) h
  | len => simp only [exec, execLen] at h; exact whenAdmitted_cfg (loadBoth_cfg fun _ _ => by simp) h
  | iterCreate k => simp only [exec, execIterCreate] at h; exact whenAdmitted_cfg (loadBoth_cfg fun _ _ => by simp) h
  | iterNext k =>
    simp only [exec, execIterNext] at h
    refine whenAdmitted_cfg (fun h => ?_) h
    split at h
    · cases h; simp
    · exact memRead_cfg (fun v h => by cases h; simp) h

/-- Nothing that one step does to a block writes the tuple. -/
theorem takeStep_cfg {s t : State} (h : takeStep s = .next t) : t.cfg = s.cfg := by
  obtain ⟨-, ⟨-, rfl⟩ | ⟨-, ⟨-, rfl⟩ | ⟨c, -, rfl⟩ | ⟨c, e, -, -, rfl⟩ | ⟨c, i, -, -, h⟩⟩⟩ := takeStep_next h
  · rfl
  · rfl
  · exact setPort_cfg ..
  · exact respond_cfg ..
  · exact exec_cfg (s := edge s) h

/-- One step of a block is what `takeStep` does to it: giving the tuple back changes nothing. -/
theorem step_eq_takeStep (s : State) : step s = takeStep s := by
  cases h : takeStep s with
  | next t => rw [step, stepOf, toBlockState_withConfig, h, ← takeStep_cfg h]; rfl
  | fault f => rw [step, stepOf, toBlockState_withConfig, h]; rfl
  | refused r => rw [step, stepOf, toBlockState_withConfig, h]; rfl

/-- What a step can do when it answers a next state: see `takeStep_next`. -/
theorem step_next {s t : State} (h : step s = .next t) :
    badConfig s.cfg = none ∧
      ((selectAction (nextInput s) (edge s) = .reset ∧ t = resetBlock (edge s)) ∨
        (s.modelFault = none ∧
          ((selectAction (nextInput s) (edge s) = .idle ∧ t = edge s) ∨
            (∃ c, selectAction (nextInput s) (edge s) = .accept c ∧
              t = acceptOn (activePort (edge s)) c (edge s)) ∨
            (∃ c e, selectAction (nextInput s) (edge s) = .run c ∧ decode c = .error e ∧
              t = respondIllegal (edge s)) ∨
            (∃ c i, selectAction (nextInput s) (edge s) = .run c ∧ decode c = .ok i ∧
              exec i (edge s) = .next t)))) :=
  takeStep_next (step_eq_takeStep s ▸ h)

/-- A run goes on from a step that answers a next state. -/
theorem run_next (M : Host.Core) (n : Nat) {x y : M.State} (h : M.step x = .next y) : M.run (n + 1) x = M.run n y := by
  simp [Host.Core.run, h]

/-- A run ends at a step that faults. -/
theorem run_fault (M : Host.Core) (n : Nat) {x : M.State} {f : M.Fault} (h : M.step x = .fault f) :
    M.run (n + 1) x = .fault f := by simp [Host.Core.run, h]

/-- A run ends at a step that refuses. -/
theorem run_refused (M : Host.Core) (n : Nat) {x : M.State} {r : M.Refusal} (h : M.step x = .refused r) :
    M.run (n + 1) x = .refused r := by simp [Host.Core.run, h]

end Sys2Proof.Machine
end

