-- ==== Sys2Proof/Laws/PerInstr.lean ====
section
/-! SUPPORT. Statements made per command: the fields of a command's encoding are its opcode, its context operand and its
data operand (R81, R82, R91). -/

namespace Sys2Proof.Laws.EncodedFields

/-- The encoding of a command holds exactly its opcode, its context operand and its data operand. -/
def Statement (i : Instr) : Prop :=
  opField (encode i).cmd = opcode i ∧ iterField (encode i).cmd = iterOperand i ∧ (encode i).data = dataOperand i

theorem nop : Statement .nop := by unfold Statement; decide
theorem push (v : Nat) : Statement (.push v) :=
  ⟨(by decide : opField (0#4 ++ 0x1#4) = 0x1#4), (by decide : iterField (0#4 ++ 0x1#4) = 0#4), rfl⟩
theorem pop : Statement .pop := by unfold Statement; decide
theorem peek : Statement .peek := by unfold Statement; decide
theorem clear : Statement .clear := by unfold Statement; decide
theorem isEmpty : Statement .isEmpty := by unfold Statement; decide
theorem isFull : Statement .isFull := by unfold Statement; decide
theorem len : Statement .len := by unfold Statement; decide
theorem iterCreate (k : CtxNum) : Statement (.iterCreate k) := by revert k; unfold Statement; decide
theorem iterNext (k : CtxNum) : Statement (.iterNext k) := by revert k; unfold Statement; decide

end Sys2Proof.Laws.EncodedFields
end

