-- ==== Sys2Proof/Tests/Slice0.lean ====
section
/-! SUPPORT. The model's own tests: expected results from 95_test_vectors.md (the vector's id stands in each comment), the
smoke tests of the checks, words written out from the encoding, and one witness for the hypotheses of each statement. -/

namespace Sys2Proof.Tests
open Sys2Proof.Machine

/-! ### Small states -/

/-- THREAD_SAFE = 0, capacity `C`, with the given indices and storage. -/
def plain (C h t : Nat) (m : Memory) : State :=
  { State.resetOf { Config.standard with capacity := C } with head := h, tail := t, slots := m }

/-- The same with OVERWRITE_ON_FULL = 1. -/
def overwriting (C h t : Nat) (m : Memory) : State :=
  { State.resetOf { Config.standard with capacity := C, overwriteOnFull := true } with head := h, tail := t, slots := m }

/-- THREAD_SAFE = 1, capacity `C`, the end `d` about to move. -/
def dual (C h t : Nat) (m : Memory) (d : Side) : State :=
  { State.resetOf { Config.standard with capacity := C, threadSafe := true } with
    head := h, tail := t, slots := m, turn := d }

/-- PROD busy at micro-step `j` of the command `w`. -/
def withProd (s : State) (w : CmdWord) (data j : Nat) (l : Locals) : State :=
  { s with prod := { s.prod with phase := .busy { cmd := w, data := data } j l } }

/-- CONS busy at micro-step `j` of the command `w`. -/
def withCons (s : State) (w : CmdWord) (j : Nat) (l : Locals) : State :=
  { s with cons := { s.cons with phase := .busy { cmd := w, data := 0 } j l } }

/-- The inputs of the coming steps. -/
def given (s : State) (xs : List Input) : State := { s with inputs := xs }

/-- A command presented on the port of the end `d`. -/
def present (d : Side) (w : CmdWord) (data : Nat) : Input :=
  { rst := false, turn := d, cmd := some { cmd := w, data := data } }

/-- One feature of the next state a meaning answers. -/
def after {α : Type} (r : Result) (f : State → α) : Option α :=
  match r with
  | .next t => some (f t)
  | .fault _ => none
  | .refused _ => none

/-- The fault a step answers. -/
def faultOf (r : Result) : Option Fault :=
  match r with
  | .fault f => some f
  | .next _ => none
  | .refused _ => none

/-- The refusal a step answers. -/
def refusalOf (r : Result) : Option Refusal :=
  match r with
  | .refused x => some x
  | .next _ => none
  | .fault _ => none

/-- Head, tail and storage. -/
def buffer (s : State) : Nat × Nat × Memory := (s.head, s.tail, s.slots)

/-! ### Smoke tests of the checks -/

theorem test_wellFormed_refuses_wide_data :
    Instr.illFormed Config.standard (.push 256) = some .dataTooWide := by decide
theorem test_wellFormed_refuses_absent_context_create :
    Instr.illFormed Config.standard (.iterCreate 4#4) = some .noSuchContext := by decide
theorem test_wellFormed_refuses_absent_context_next :
    Instr.illFormed Config.standard (.iterNext 15#4) = some .noSuchContext := by decide
theorem test_wellFormed_accepts : Instr.wellFormed Config.standard (.push 255) = true := by decide
theorem test_badConfig_capacity : badConfig { Config.standard with capacity := 0 } = some .invalidCapacity := by decide
theorem test_badConfig_width : badConfig { Config.standard with dataWidth := 0 } = some .invalidDataWidth := by decide
theorem test_badConfig_iters_low : badConfig { Config.standard with nIter := 0 } = some .invalidIterCount := by decide
theorem test_badConfig_iters_high : badConfig { Config.standard with nIter := 17 } = some .invalidIterCount := by decide
theorem test_badConfig_both :
    badConfig { Config.standard with threadSafe := true, overwriteOnFull := true } = some .threadSafeWithOverwrite := by
  decide

/-! ### Words from R81 and R82, read by the decoder -/

theorem test_decode_nop : decodeTableWord 8 0b00000000 = some .nop := by decide
theorem test_decode_nop_iter_ignored : decodeTableWord 8 0b11110000 = some .nop := by decide
theorem test_decode_push : decodeTableWord 8 0b00000001 = some (.push 0) := by decide
theorem test_decode_push_operand : decodeTableWord 16 0xAB01 = some (.push 0xAB) := by decide
theorem test_decode_pop : decodeTableWord 8 0b00000010 = some .pop := by decide
theorem test_decode_peek : decodeTableWord 8 0b00000011 = some .peek := by decide
theorem test_decode_clear : decodeTableWord 8 0b00000100 = some .clear := by decide
theorem test_decode_isEmpty : decodeTableWord 8 0b00000101 = some .isEmpty := by decide
theorem test_decode_isFull : decodeTableWord 8 0b00000110 = some .isFull := by decide
theorem test_decode_len : decodeTableWord 8 0b00000111 = some .len := by decide
theorem test_decode_iterCreate : decodeTableWord 8 0b00101000 = some (.iterCreate 2#4) := by decide
theorem test_decode_iterNext : decodeTableWord 8 0b00111001 = some (.iterNext 3#4) := by decide
theorem test_decode_reserved_low : decodeTableWord 8 0b00001010 = none := by decide
theorem test_decode_reserved_high : decodeTableWord 8 0b11111111 = none := by decide
/-- D-9, D-8, D-6: ILLEGAL by port and by context. -/
theorem test_decodeAt_illegal :
    decodeAt Config.standard .cons { cmd := 0x01#8, data := 0 } = none ∧
    decodeAt Config.standard .prod { cmd := 0x02#8, data := 0 } = none ∧
    decodeAt Config.standard .main { cmd := 0x49#8, data := 0 } = none := by decide

/-! ### Index arithmetic (section 2.1) -/

/-- Mask path, C = 8. -/
theorem test_advance_mask : (List.range 8).map (advance Config.standard) = [1, 2, 3, 4, 5, 6, 7, 0] := by decide
/-- Modulo path, C = 7. -/
theorem test_advance_modulo :
    (List.range 7).map (advance { Config.standard with capacity := 7 }) = [1, 2, 3, 4, 5, 6, 0] := by decide
/-- C = 1: mask 0. -/
theorem test_advance_one : advance { Config.standard with capacity := 1 } 0 = 0 := by decide
/-- Q3 and Q7. -/
theorem test_len_wrapped :
    len Config.standard 2 5 = 5 ∧ len { Config.standard with capacity := 7 } 2 5 = 4 := by decide
/-- Q5, Q11. -/
theorem test_comparators :
    isFull Config.standard 3 4 = true ∧ isEmpty 3 4 = false ∧
    isFull { Config.standard with capacity := 1 } 0 0 = true ∧ isEmpty 0 0 = true := by decide
theorem test_indexWidth : indexWidth Config.standard = 3 ∧ indexWidth { Config.standard with capacity := 9 } = 4 ∧
    indexWidth { Config.standard with capacity := 1 } = 1 := by decide

/-! ### Commands, one step each -/

/-- U2: wrap of `head`. -/
theorem test_push_wraps :
    after (exec (.push 0xAB) (plain 8 7 2 [])) buffer = some (0, 2, [(7, 0xAB)]) := by decide
/-- U5: overwrite, both indices move. -/
theorem test_push_overwrites :
    after (exec (.push 0x55) (overwriting 8 7 0 [])) buffer = some (0, 1, [(7, 0x55)]) := by decide
/-- O7: wrap of `tail`, the slot keeps its content. -/
theorem test_pop_wraps :
    after (exec .pop (plain 8 0 7 [(7, 0x70)])) (fun t => (buffer t, t.main.rsp))
      = some ((0, 0, [(7, 0x70)]), { status := .ok, data := 0x70 }) := by decide
/-- O3. -/
theorem test_pop_empty :
    after (exec .pop State.reset) (fun t => t.main.rsp) = some { status := .bufferEmpty } := by decide
/-- K1. -/
theorem test_peek :
    after (exec .peek (plain 8 3 1 [(1, 0x5A)])) (fun t => (buffer t, t.main.rsp))
      = some ((3, 1, [(1, 0x5A)]), { status := .ok, data := 0x5A }) := by decide
/-- L1. -/
theorem test_clear :
    after (exec .clear (plain 8 6 2 [(2, 1), (3, 2)])) buffer = some (0, 0, [(2, 1), (3, 2)]) := by decide
/-- L6, T3: the model fault is recorded, nothing else changes; from there a step answers it. -/
theorem test_clear_race :
    after (exec .clear (withProd (dual 4 0 0 [] .consumer) 0x01#8 5 2 { h := some 0, n := some 1 }))
      (fun t => t.modelFault) = some (some .clearRace) ∧
    after (exec .clear (withProd (dual 4 0 0 [] .consumer) 0x01#8 5 2 { h := some 0, n := some 1 })) buffer
      = some (0, 0, []) := by decide
/-- N2. -/
theorem test_nop : after (exec .nop State.reset) (fun t => (buffer t, t.main.log))
    = some ((0, 0, []), [{ status := .ok }]) := by decide
/-- E1, E2. -/
theorem test_isEmpty :
    after (exec .isEmpty (plain 8 4 4 [])) (fun t => t.main.rsp.flag) = some true ∧
    after (exec .isEmpty (plain 8 5 4 [])) (fun t => t.main.rsp.flag) = some false := by decide
/-- F3, F2. -/
theorem test_isFull :
    after (exec .isFull (plain 7 6 0 [])) (fun t => t.main.rsp.flag) = some true ∧
    after (exec .isFull (plain 8 6 0 [])) (fun t => t.main.rsp.flag) = some false := by decide
/-- G1. -/
theorem test_len : after (exec .len (plain 7 2 5 [])) (fun t => t.main.rsp.count) = some 4 := by decide
/-- I1. -/
theorem test_iterCreate :
    after (exec (.iterCreate 0#4) (plain 8 1 6 [])) (fun t => (iterAt t 0#4, t.main.rsp.count))
      = some ({ cursor := 6, remaining := 3 }, 3) := by decide
/-- I2, second call: the cursor wraps. -/
theorem test_iterNext_wraps :
    after (exec (.iterNext 0#4) { plain 8 1 6 [(6, 0xA), (7, 0xB), (0, 0xC)] with
        iters := [{ cursor := 7, remaining := 2 }, ⟨0, 0⟩, ⟨0, 0⟩, ⟨0, 0⟩] })
      (fun t => (iterAt t 0#4, t.main.rsp.data)) = some ({ cursor := 0, remaining := 1 }, 0xB) := by decide
/-- I6. -/
theorem test_iterNext_done :
    after (exec (.iterNext 3#4) State.reset) (fun t => t.main.rsp) = some { status := .iterDone } := by decide
/-- U11, O6. -/
theorem test_wrong_port_is_illegal :
    after (exec (.push 1) (dual 8 0 0 [] .consumer)) (fun t => t.cons.rsp) = some { status := .illegal } ∧
    after (exec (.push 1) (dual 8 0 0 [] .consumer)) buffer = some (0, 0, []) ∧
    after (exec .pop (dual 8 0 0 [] .producer)) (fun t => t.prod.rsp) = some { status := .illegal } := by decide
/-- T1, order 4: PUSH's s3 writes the slot; `head` is still 0. -/
theorem test_push_s3 :
    after (exec (.push 0x21) (withProd (dual 4 0 0 [] .producer) 0x01#8 0x21 3 { h := some 0, n := some 1, t := some 0 }))
      buffer = some (0, 0, [(0, 0x21)]) := by decide
/-- T1, order 6: a stale copy of `head` makes POP answer BUFFER_EMPTY. -/
theorem test_pop_s2_stale :
    after (exec .pop (withCons (dual 4 1 0 [(0, 0x21)] .consumer) 0x02#8 2 { h := some 0 }))
      (fun t => (t.cons.rsp, t.cons.phase)) = some ({ status := .bufferEmpty }, .idle) := by decide
/-- T2, order B: POP's s4 publishes `tail` and answers the value read at s3. -/
theorem test_pop_s4 :
    after (exec .pop (withCons (dual 2 1 0 [(0, 1)] .consumer) 0x02#8 4 { h := some 1, t := some 0, v := some 1 }))
      (fun t => (t.tail, t.cons.rsp)) = some (1, { status := .ok, data := 1 }) := by decide
/-- A slot that holds `⊥` is the model fault (R14), in a state no run reaches. -/
theorem test_unwritten_slot :
    after (exec .pop (plain 8 1 0 [])) (fun t => t.modelFault) = some (some .unwrittenSlotRead) := by decide

/-! ### Steps -/

/-- The word of the opcode table placed where the next step runs it, in both configurations of THREAD_SAFE. -/
theorem test_withFetchWord :
    after (step (State.reset.withFetchWord 8 0x07)) (fun t => t.main.log) = some [{ status := .ok }] ∧
    after (step ((dual 4 0 0 [] .consumer).withFetchWord 8 0x01)) (fun t => t.prod.phase)
      = some (.busy { cmd := 0x01#8, data := 0 } 2 { h := some 0, n := some 1 }) ∧
    after (step ((dual 4 0 0 [] .producer).withFetchWord 8 0x39)) (fun t => t.cons.log)
      = some [{ status := .iterDone }] := by decide
/-- Program 6, line 1: a reserved `op` is answered ILLEGAL by the step. -/
theorem test_step_reserved :
    after (step (given State.reset [present .producer 0x0A#8 0])) (fun t => (buffer t, t.main.log))
      = some ((0, 0, []), [{ status := .illegal }]) := by decide
/-- The response pulse ends at the next step (R94). -/
theorem test_pulse_ends :
    after (step { State.reset with main := { State.reset.main with rspValid := true } }) (fun t => t.main.rspValid)
      = some false := by decide
/-- With no input, a busy CONS moves (R74). -/
theorem test_default_turn :
    after (step (withCons (dual 4 1 0 [(0, 9)] .producer) 0x03#8 1 {})) (fun t => t.cons.phase)
      = some (.busy { cmd := 0x03#8, data := 0 } 2 { h := some 1 }) := by decide
/-- R1: a reset aborts the command in flight. -/
theorem test_reset_aborts :
    after (step (given (withProd (dual 4 1 0 [(0, 9)] .producer) 0x01#8 5 3 { h := some 1, n := some 2 })
        [{ rst := true, turn := .producer, cmd := some { cmd := 0x01#8, data := 0 } }]))
      (fun t => (buffer t, t.prod)) = some ((0, 0, []), PortState.reset) := by decide
/-- Z1, Z2. -/
theorem test_step_refuses_configuration :
    refusalOf (step (plain 0 0 0 [])) = some (.illegalConfiguration .invalidCapacity) := by decide
/-- R91: an assembler line. -/
theorem test_assemble :
    assembleLine { Config.standard with threadSafe := true } ['P', 'R', 'O', 'D', ':', ' ', 'P', 'U', 'S', 'H', ' ', '7']
      = some (.prod, { cmd := 0x01#8, data := 7 }) := by decide

/-! ### Witnesses: the hypotheses of each statement can be met -/

theorem witness_reset_legal : Legal State.reset ∧ Safe State.reset ∧ Inv State.reset := by decide
theorem witness_MaskPathEqualsModuloPath : (7 : Nat) < Config.standard.capacity ∧ pow2 Config.standard = true := by decide
theorem witness_IllegalConfigurationHasNoStep : badConfig (plain 0 0 0 []).cfg = some .invalidCapacity := by decide
theorem witness_WrapMask_absent : pow2 { Config.standard with capacity := 7 } = false := by decide
theorem witness_IndexWidthIsLeast : 1 ≤ 3 ∧ Config.standard.capacity ≤ 2 ^ 3 := by decide
theorem witness_AdvanceVisitsEverySlotOncePerLap : (7 : Nat) < Config.standard.capacity ∧ 0 < 7 ∧ 7 < 8 := by decide
theorem witness_Len_power : Config.standard.capacity = 2 ^ indexWidth Config.standard ∧ (2 : Nat) < 8 ∧ (5 : Nat) < 8 := by
  decide
theorem witness_Len_not_power :
    { Config.standard with capacity := 7 }.capacity ≠ 2 ^ indexWidth { Config.standard with capacity := 7 } ∧
    (2 : Nat) < 5 ∧ 5 < 7 := by decide
theorem witness_ComparatorsAgreeWithLen : 2 ≤ Config.standard.capacity ∧ (7 : Nat) < 8 := by decide
theorem witness_SingleSlot : IndicesInRange (plain 1 0 0 []) ∧ (plain 1 0 0 []).cfg.capacity = 1 := by decide
theorem witness_OutputsAgreeWithContents : IndicesInRange (plain 8 3 4 []) := by decide
theorem witness_DecodeAndEncodeAgree : admitted Config.standard .main (.iterNext 3#4) = true := by decide
theorem witness_ReservedOpIsAnsweredIllegal : 0xA ≤ (opField 0x7A#8).toNat ∧ 0xA ≤ (opField 0xFF#8).toNat := by decide
theorem witness_PortPermissionTable :
    permitted (activePort (dual 4 0 0 [] .consumer)) (.push 0) = false ∧
    permitted (activePort (dual 4 0 0 [] .producer)) .pop = false := by decide
theorem witness_ContextNumberField : State.reset.cfg.nIter ≤ (4#4 : CtxNum).toNat ∧
    opField 0xF0#8 = opField 0x00#8 ∧ opField 0x00#8 ≠ 0x8#4 ∧ opField 0x00#8 ≠ 0x9#4 := by decide
theorem witness_DecodeIsTotal :
    decodeAt State.reset.cfg (activePort State.reset) { cmd := 0x4A#8, data := 0 } = none ∧
    decodeAt State.reset.cfg (activePort State.reset) { cmd := 0x39#8, data := 0 } = some (.iterNext 3#4) := by decide

/-- A command presented on MAIN. -/
theorem witness_StepRunsPresentedCommand :
    Legal (given State.reset [present .producer 0x01#8 255]) ∧ Safe State.reset ∧ 255 < 2 ^ State.reset.cfg.dataWidth ∧
    decodeTableWord 16 0xFF01 = some (.push 255) := by decide
/-- A command held by PROD. -/
theorem witness_StepRunsHeldCommand :
    Legal (given (withProd (dual 4 0 0 [] .producer) 0x01#8 5 2 { n := some 1 }) [present .producer 0x00#8 0]) ∧
    (portAt (withProd (dual 4 0 0 [] .producer) 0x01#8 5 2 { n := some 1 }) .prod).phase
      = .busy { cmd := 0x01#8, data := 5 } 2 { n := some 1 } := by decide
theorem witness_ReadyPortAcceptsCommand :
    cmdReady (given (dual 4 0 0 [] .producer) [present .consumer 0x02#8 0]) .cons = true := by decide
theorem witness_CmdReady_low :
    cmdReady (given State.reset [{ rst := true, turn := .producer, cmd := none }]) .main = false := by decide
theorem witness_ResetStep : Legal (given (dual 4 1 0 [] .producer) [{ rst := true, turn := .producer, cmd := none }]) := by
  decide
theorem witness_ResetStateValues : badConfig { Config.standard with capacity := 1 } = none := by decide
theorem witness_ModelFaultIsSticky :
    faultOf (step { State.reset with modelFault := some .clearRace }) = some (.modelFault .clearRace) ∧
    after (step (given { State.reset with modelFault := some .clearRace }
      [{ rst := true, turn := .producer, cmd := none }])) (fun t => t.modelFault) = some (some .clearRace) ∧
    (after (exec .nop { State.reset with modelFault := some .clearRace }) (fun t => t.modelFault)).isSome = true := by decide
theorem witness_TwoCauses_peek_micro :
    after (exec .peek (withCons (dual 4 1 0 [] .consumer) 0x03#8 3 { h := some 1, t := some 0 })) (fun t => t.modelFault)
      = some (some .unwrittenSlotRead) := by decide

/-- Not full; full without overwriting; full with it. -/
theorem witness_PushWholeStep :
    (advance (plain 8 7 2 []).cfg 7 ≠ 2 ∧ 7 < (plain 8 7 2 []).cfg.capacity ∧ 255 < 2 ^ (plain 8 7 2 []).cfg.dataWidth) ∧
    (advance (plain 8 1 2 []).cfg 1 = 2 ∧ (plain 8 1 2 []).cfg.overwriteOnFull = false) ∧
    (advance (overwriting 8 7 0 []).cfg 7 = 0 ∧ (overwriting 8 7 0 []).cfg.overwriteOnFull = true) := by decide
/-- Each of s1, s2 (full and not), s3, s4. -/
theorem witness_PushMicroSteps :
    AtMicro (withProd (dual 4 3 0 [] .producer) 0x01#8 5 1 {}) { cmd := 0x01#8, data := 5 } 1 {} ∧
    AtMicro (withProd (dual 4 3 0 [] .producer) 0x01#8 5 2 { n := some 0 }) { cmd := 0x01#8, data := 5 } 2 { n := some 0 } ∧
    AtMicro (withProd (dual 4 3 1 [] .producer) 0x01#8 5 2 { n := some 0 }) { cmd := 0x01#8, data := 5 } 2 { n := some 0 } ∧
    AtMicro (withProd (dual 4 3 1 [] .producer) 0x01#8 5 3 { h := some 3 }) { cmd := 0x01#8, data := 5 } 3 { h := some 3 } ∧
    AtMicro (withProd (dual 4 3 1 [] .producer) 0x01#8 5 4 { n := some 0 }) { cmd := 0x01#8, data := 5 } 4 { n := some 0 } := by
  decide
theorem witness_PopAndPeekWholeStep :
    (plain 8 3 3 []).tail = (plain 8 3 3 []).head ∧ (plain 8 0 7 [(7, 9)]).tail ≠ (plain 8 0 7 [(7, 9)]).head ∧
    slotAt (plain 8 0 7 [(7, 9)]).slots 7 = some 9 ∧ 7 < (plain 8 0 7 [(7, 9)]).cfg.capacity := by decide
/-- Each of s1, s2 (empty and not), s3, s4. -/
theorem witness_PopAndPeekMicroSteps :
    AtMicro (withCons (dual 4 0 3 [(3, 9)] .consumer) 0x02#8 1 {}) { cmd := 0x02#8, data := 0 } 1 {} ∧
    AtMicro (withCons (dual 4 0 3 [(3, 9)] .consumer) 0x02#8 2 { h := some 3 }) { cmd := 0x02#8, data := 0 } 2
      { h := some 3 } ∧
    AtMicro (withCons (dual 4 0 3 [(3, 9)] .consumer) 0x02#8 2 { h := some 0 }) { cmd := 0x02#8, data := 0 } 2
      { h := some 0 } ∧
    AtMicro (withCons (dual 4 0 3 [(3, 9)] .consumer) 0x02#8 3 { t := some 3 }) { cmd := 0x02#8, data := 0 } 3
      { t := some 3 } ∧
    slotAt (dual 4 0 3 [(3, 9)] .consumer).slots 3 = some 9 ∧
    AtMicro (withCons (dual 4 0 3 [(3, 9)] .consumer) 0x02#8 4 { t := some 3, v := some 9 }) { cmd := 0x02#8, data := 0 } 4
      { t := some 3, v := some 9 } := by decide
/-- The other port idle, at s1 (quiescent), and at s2 (in flight). -/
theorem witness_ClearMicroStep :
    (portAt (dual 4 0 0 [] .consumer) (otherPort .cons)).phase = .idle ∧
    inFlight (portAt (withProd (dual 4 0 0 [] .consumer) 0x01#8 5 1 {}) (otherPort .cons)) = false ∧
    (portAt (withProd (dual 4 0 0 [] .consumer) 0x01#8 5 2 {}) (otherPort .cons)).phase
      = .busy { cmd := 0x01#8, data := 5 } 2 {} ∧ Safe (withProd (dual 4 0 0 [] .consumer) 0x01#8 5 2 {}) := by decide
/-- s1 and s2 of a query, on either port. -/
theorem witness_QuerySteps :
    AtMicro (withProd (dual 4 0 0 [] .producer) 0x07#8 0 1 {}) { cmd := 0x07#8, data := 0 } 1 {} ∧
    AtMicro (withCons (dual 4 0 0 [] .consumer) 0x05#8 2 { h := some 0 }) { cmd := 0x05#8, data := 0 } 2 { h := some 0 } ∧
    (plain 8 0 0 []).cfg.threadSafe = false := by decide
theorem witness_IterCreateSteps :
    (3#4 : CtxNum).toNat < State.reset.cfg.nIter ∧ State.reset.iters.length = State.reset.cfg.nIter ∧
    activePort State.reset ≠ .prod ∧ activePort (dual 4 1 0 [] .consumer) ≠ .prod ∧
    AtMicro (withCons (dual 4 1 0 [] .consumer) 0x38#8 2 { h := some 1 }) { cmd := 0x38#8, data := 0 } 2 { h := some 1 } := by
  decide
/-- An exhausted context, and one with an element left at the top of the storage. -/
theorem witness_IterNextStep :
    (iterAt State.reset 3#4).remaining = 0 ∧
    (iterAt { plain 8 0 7 [(7, 9)] with iters := [⟨7, 1⟩, ⟨0, 0⟩, ⟨0, 0⟩, ⟨0, 0⟩] } 0#4).remaining ≠ 0 ∧
    slotAt (plain 8 0 7 [(7, 9)]).slots 7 = some 9 := by decide

/-- PROD at s3 of a PUSH and CONS at s3 of a POP, with the invariant: both ports in flight. -/
def bothInFlight : State :=
  withCons (withProd (dual 4 2 0 [(0, 7), (1, 8)] .producer) 0x01#8 5 3 { h := some 2, n := some 3, t := some 0 })
    0x02#8 3 { h := some 1, t := some 0 }

theorem witness_LenSteps_bound : (plain 7 2 5 []).head < (plain 7 2 5 []).cfg.capacity ∧
    (plain 7 2 5 []).tail < (plain 7 2 5 []).cfg.capacity := by decide
theorem witness_Inv_both_in_flight : Inv bothInFlight ∧ Legal bothInFlight ∧ Safe bothInFlight := by decide
theorem witness_EveryStepKeepsInv : after (step bothInFlight) buffer = some (2, 0, [(0, 7), (1, 8), (2, 5)]) := by decide
/-- The machine built with C = 7 runs, with no tuple in its states: a presented LEN is answered. -/
theorem witness_StepRelationTakesTheTupleAsArgument :
    (match Host.Core.run (machineOf { Config.standard with capacity := 7 }) 1
        { (plain 7 2 5 []).toBlockState with inputs := [present .producer 0x07#8 0] } with
      | .next b => some b.main.rsp
      | .fault _ => none
      | .refused _ => none) = some { status := .ok, count := 4 } ∧
    (after (exec .len ((plain 7 2 5 []).toBlockState.withConfig { Config.standard with capacity := 7 }))
      (fun t => t.cfg.capacity)) = some 7 := by decide
theorem witness_ConfigurationNeverChanges :
    after (Host.Core.run core 2 State.reset) (fun t => t.cfg) = some Config.standard := by decide
theorem witness_OnlyResetUnwritesSlots :
    (nextInput bothInFlight).rst = false ∧ slotAt bothInFlight.slots 1 ≠ none := by decide
theorem witness_SingleWriterPerIndex :
    after (exec (.push 5) (withProd (dual 4 0 0 [(0, 5)] .producer) 0x01#8 5 4 { n := some 1 })) (fun t => t.head) = some 1 ∧
    after (exec .pop (withCons (dual 4 1 0 [(0, 5)] .consumer) 0x02#8 4 { t := some 0, v := some 5 })) (fun t => t.tail)
      = some 1 ∧
    after (exec .clear (dual 4 1 0 [(0, 5)] .consumer)) (fun t => t.head) = some 0 := by decide
theorem witness_OnlyTheseCommandsChangeState :
    after (exec (.push 1) (overwriting 8 7 0 [])) (fun t => t.tail) = some 1 ∧
    (after (exec .peek (plain 8 3 1 [(1, 9)])) (fun t => after (exec .peek t) (fun u => u.main.rsp.data))).isSome = true := by
  decide
theorem witness_FailedCommandHasNoEffect :
    after (exec (.push 1) (plain 8 1 2 [])) (fun t => t.main.log) = some [{ status := .bufferFull }] ∧
    after (exec (.push 5) bothInFlight) (fun t => t.prod.phase)
      = some (.busy { cmd := 0x01#8, data := 5 } 4 { h := some 2, n := some 3, t := some 0 }) ∧
    after (exec (.push 5) (withProd (dual 4 0 0 [(0, 5)] .producer) 0x01#8 5 4 { n := some 1 })) (fun t => t.prod.log)
      = some [{ status := .ok }] := by decide
theorem witness_EachCommandAnswersOnce :
    after (exec .len State.reset) (fun t => (t.modelFault, t.main.log.length)) = some (none, 1) ∧
    AtMicro bothInFlight { cmd := 0x01#8, data := 5 } 3 { h := some 2, n := some 3, t := some 0 } := by decide
theorem witness_HeldCommandsFinish :
    bothInFlight.inputs = [] ∧ decodeTableWord 8 0x01 ≠ some .clear ∧ decodeTableWord 8 0x02 ≠ some .clear := by decide
theorem witness_ResponseFields :
    admitted (dual 4 0 0 [] .consumer).cfg .cons (.push 1) = false ∧ admitted State.reset.cfg .main .len = true ∧
    after (exec .len State.reset) (fun t => t.main.log) = some ([] ++ [{ status := .ok, count := 0 }]) := by decide
/-- Room; full without overwriting; full with it, for C >= 2 and C = 1; something to pop; nothing to pop. -/
theorem witness_Fifo_room : Inv (plain 4 1 3 [(0, 8), (3, 7)]) ∧
    fullOutput (plain 4 1 3 [(0, 8), (3, 7)]) = false ∧ contents (plain 4 1 3 [(0, 8), (3, 7)]) = [some 7, some 8] := by
  decide
theorem witness_Fifo_full : Inv (plain 2 1 0 [(0, 7)]) ∧ fullOutput (plain 2 1 0 [(0, 7)]) = true := by decide
theorem witness_Fifo_overwriting : Inv (overwriting 2 1 0 [(0, 7)]) ∧ fullOutput (overwriting 2 1 0 [(0, 7)]) = true := by
  decide
theorem witness_Fifo_one_slot : Inv (overwriting 1 0 0 []) ∧ fullOutput (overwriting 1 0 0 []) = true := by decide
theorem witness_Fifo_empty : Inv (plain 2 0 0 []) ∧ contents (plain 2 0 0 []) = [] := by decide
/-- Each command answers a next state there. -/
theorem witness_Fifo_next :
    after (exec (.push 9) (plain 4 1 3 [(0, 8), (3, 7)])) contents = some [some 7, some 8, some 9] ∧
    after (exec .pop (plain 4 1 3 [(0, 8), (3, 7)])) contents = some [some 8] ∧
    after (exec (.push 9) (overwriting 2 1 0 [(0, 7)])) contents = some [some 9] := by decide

/-- PROD at s4 of a PUSH, with the invariant. -/
def pushPublishing : State :=
  withProd (dual 4 3 1 [(1, 7), (2, 8), (3, 5)] .producer) 0x01#8 5 4 { h := some 3, n := some 0, t := some 0 }

/-- CONS at s4 of a POP, with the invariant. -/
def popPublishing : State :=
  withCons (dual 4 0 3 [(3, 9)] .consumer) 0x02#8 4 { h := some 0, t := some 3, v := some 9 }

theorem witness_ContentsChange_push_publishes :
    Inv pushPublishing ∧ AtMicro pushPublishing { cmd := 0x01#8, data := 5 } 4 { h := some 3, n := some 0, t := some 0 } := by
  decide
theorem witness_ContentsChange_pop_publishes :
    Inv popPublishing ∧ AtMicro popPublishing { cmd := 0x02#8, data := 0 } 4 { h := some 0, t := some 3, v := some 9 } := by
  decide
theorem witness_ContentsChange_next :
    decodeAt pushPublishing.cfg .prod { cmd := 0x01#8, data := 5 } = some (.push 5) ∧
    after (exec (.push 5) pushPublishing) contents = some [some 7, some 8, some 5] ∧
    after (exec .pop popPublishing) contents = some ([] : List (Option Nat)) ∧
    after (exec (.push 5) bothInFlight) contents = some (contents bothInFlight) := by decide
theorem witness_ContentsChange_clear : Inv (withCons (dual 4 1 0 [(0, 9)] .consumer) 0x04#8 1 {}) ∧
    after (exec .clear (withCons (dual 4 1 0 [(0, 9)] .consumer) 0x04#8 1 {})) (fun t => (t.modelFault, t.head))
      = some (none, 0) := by decide
/-- LEN at s2 on CONS with a stale copy of `head`, PUSH at s2 on PROD with a full buffer. -/
theorem witness_Answers_cons :
    Inv (withCons (dual 4 2 0 [(0, 7), (1, 8)] .consumer) 0x07#8 2 { h := some 1 }) ∧
    after (exec .len (withCons (dual 4 2 0 [(0, 7), (1, 8)] .consumer) 0x07#8 2 { h := some 1 })) (fun t => t.cons.rsp.count)
      = some 1 := by decide
theorem witness_Answers_prod :
    Inv (withProd (dual 2 1 0 [(0, 7)] .producer) 0x01#8 5 2 { h := some 1, n := some 0 }) ∧
    fullOutput (dual 2 1 0 [(0, 7)] .producer) = true := by decide
theorem witness_Uninterrupted :
    Inv (given (withProd (dual 4 3 0 [(0, 7), (1, 8), (2, 9)] .producer) 0x01#8 5 1 {})
      (List.replicate 4 { rst := false, turn := .producer, cmd := none })) ∧
    decodeAt (dual 4 3 0 [] .producer).cfg .prod { cmd := 0x01#8, data := 5 } = some (.push 5) ∧
    inFlight (dual 4 3 0 [] .producer).cons = false := by decide

/-- One context part way through the logical range. -/
def iterating : State :=
  { plain 4 2 3 [(0, 8), (1, 9), (3, 7)] with iters := [⟨0, 2⟩, ⟨0, 0⟩, ⟨0, 0⟩, ⟨0, 0⟩] }

theorem witness_IteratorYieldsItsRange :
    Inv iterating ∧ (iterAt iterating 0#4).remaining ≠ 0 ∧ iterContents iterating 0#4 = [some 8, some 9] ∧
    activePort iterating ≠ .prod ∧
    (∀ j < (iterAt iterating 0#4).remaining, ((iterAt iterating 0#4).cursor + j) % 4 ≠ iterating.head) := by decide
theorem witness_SnapshotSurvives :
    (iterAt iterating 0#4).cursor = (iterating.tail + 1) % iterating.cfg.capacity ∧
    1 + (iterAt iterating 0#4).remaining ≤ len iterating.cfg iterating.head iterating.tail ∧
    (after (exec (.push 1) iterating) buffer).isSome = true := by decide
/-- T6. -/
theorem witness_PushThenPopRoundTrip :
    Inv (plain 8 3 3 []) ∧ fullOutput (plain 8 3 3 []) = false ∧ emptyOutput (plain 8 3 3 []) = true ∧
    after (exec (.push 0x66) (plain 8 3 3 [])) (fun t => after (exec .pop t) (fun u => u.main.rsp))
      = some (some { status := .ok, data := 0x66 }) := by decide

end Sys2Proof.Tests
end

section
/-! PROOFS. The parameters derived from the configuration tuple, and the tuple as an argument of the step relation
(00_scope.md). -/

namespace Sys2Proof.Machine

/-- POW2 holds exactly for the powers of two (R6). -/
theorem pow2_iff (cfg : Config) : pow2 cfg = true ↔ ∃ K, cfg.capacity = 2 ^ K := by
  rw [pow2, beq_iff_eq]
  constructor
  · exact fun h => ⟨_, h⟩
  · rintro ⟨K, hK⟩
    rw [hK, Nat.log2_two_pow]

/-- WRAP_MASK where POW2 holds (R6). -/
theorem wrapMask_of_pow2 {cfg : Config} (h : pow2 cfg = true) : wrapMask cfg = some (cfg.capacity - 1) := by
  simp [wrapMask, h]

/-- WRAP_MASK is absent where POW2 does not hold (R6). -/
theorem wrapMask_of_not_pow2 {cfg : Config} (h : pow2 cfg = false) : wrapMask cfg = none := by
  simp [wrapMask, h]

/-- Settles O1: each part is what POW2 or WRAP_MASK says of itself. -/
theorem wrapMaskPresentExactlyForPowersOfTwo : Obligations.WrapMaskPresentExactlyForPowersOfTwo :=
  fun cfg => ⟨pow2_iff cfg, wrapMask_of_pow2, wrapMask_of_not_pow2⟩

/-- IW is a lower bound of exactly the widths of at least one bit that hold every index (R7). -/
theorem indexWidth_le_iff (cfg : Config) {w : Nat} (hw : 1 ≤ w) : indexWidth cfg ≤ w ↔ cfg.capacity ≤ 2 ^ w := by
  unfold indexWidth
  split
  · next hC =>
    have : 2 ^ 1 ≤ 2 ^ w := Nat.pow_le_pow_right Nat.two_pos hw
    omega
  · next hC =>
    have := Nat.log2_lt (n := cfg.capacity - 1) (k := w) (by omega)
    omega

/-- IW is at least one bit (R7). -/
theorem one_le_indexWidth (cfg : Config) : 1 ≤ indexWidth cfg := by
  unfold indexWidth
  split <;> omega

/-- IW bits hold every index (R7). -/
theorem capacity_le_two_pow_indexWidth (cfg : Config) : cfg.capacity ≤ 2 ^ indexWidth cfg :=
  (indexWidth_le_iff cfg (one_le_indexWidth cfg)).1 le_rfl

/-- Settles O2: IW is itself one of the widths it bounds from below. -/
theorem indexWidthIsLeast : Obligations.IndexWidthIsLeast :=
  fun cfg => ⟨one_le_indexWidth cfg, capacity_le_two_pow_indexWidth cfg, fun _ hw => (indexWidth_le_iff cfg hw).2⟩

/-- A next state with the tuple given back is a next block state with that tuple. -/
theorem keepConfig_next {cfg : Config} {r : Host.Outcome BlockState Fault Refusal} {t : State}
    (h : keepConfig cfg r = .next t) : ∃ b, r = .next b ∧ t = b.withConfig cfg := by
  cases r with
  | next b => cases h; exact ⟨b, rfl, rfl⟩
  | fault f => cases h
  | refused x => cases h

/-- One step of a block with its tuple is one step of the machine built with it (R3). -/
theorem step_withConfig (cfg : Config) (b : BlockState) :
    core.step (b.withConfig cfg) = keepConfig cfg ((machineOf cfg).step b) := rfl

/-- A run of a block with its tuple is a run of the machine built with it (R3, R34). -/
theorem run_withConfig (cfg : Config) (n : Nat) (b : BlockState) :
    Host.Core.run core n (b.withConfig cfg) = keepConfig cfg (Host.Core.run (machineOf cfg) n b) := by
  induction n generalizing b with
  | zero => rfl
  | succ n ih =>
    have hstep := step_withConfig cfg b
    cases h : (machineOf cfg).step b with
    | next b' =>
      rw [h] at hstep
      rw [run_next core n hstep, run_next (machineOf cfg) n h]
      exact ih b'
    | fault f =>
      rw [h] at hstep
      rw [run_fault core n hstep, run_fault (machineOf cfg) n h]
      rfl
    | refused r =>
      rw [h] at hstep
      rw [run_refused core n hstep, run_refused (machineOf cfg) n h]
      rfl

/-- A state that carries the tuple `cfg` is its block state paired with `cfg`. -/
theorem eq_withConfig_of_cfg {cfg : Config} {t : State} (h : t.cfg = cfg) : t = t.toBlockState.withConfig cfg := by
  rw [← h, toBlockState_withConfig]

/-- Settles O42: by induction on the number of steps, and because no command writes the tuple (`exec_cfg`). -/
theorem stepRelationTakesTheTupleAsArgument : Obligations.StepRelationTakesTheTupleAsArgument :=
  fun cfg b => ⟨fun n => run_withConfig cfg n b, fun _ t h => ⟨t.toBlockState, eq_withConfig_of_cfg (exec_cfg h)⟩⟩

/-- Settles O43: the run is that of the machine built with the start's tuple, with that tuple given back. -/
theorem configurationNeverChanges : Obligations.ConfigurationNeverChanges := by
  intro n s t h
  have hrun := run_withConfig s.cfg n s.toBlockState
  rw [toBlockState_withConfig, h] at hrun
  obtain ⟨b, -, rfl⟩ := keepConfig_next hrun.symm
  rfl

end Sys2Proof.Machine
end

section
/-! PROOFS. Index arithmetic: `advance` and `len` as remainders, and how the length moves with each index
(R100 to R108). -/

namespace Sys2Proof.Machine

section Indices
variable {cfg : Config} {h t : Nat}

/-- Both paths of `advance` are the increment modulo the capacity (R100). -/
theorem advance_eq_mod (cfg : Config) (i : Nat) : advance cfg i = (i + 1) % cfg.capacity := by
  cases hp : pow2 cfg with
  | false => simp [advance, wrapMask_of_not_pow2 hp]
  | true =>
    obtain ⟨K, hK⟩ := (pow2_iff cfg).1 hp
    simp [advance, wrapMask_of_pow2 hp, hK, Nat.and_two_pow_sub_one_eq_mod]

/-- The increment stays in range. -/
theorem advance_lt (hC : 0 < cfg.capacity) (i : Nat) : advance cfg i < cfg.capacity :=
  advance_eq_mod cfg i ▸ Nat.mod_lt _ hC

/-- The increment in its compare form (R101). -/
theorem advance_eq_ite (hh : h < cfg.capacity) : advance cfg h = if h + 1 = cfg.capacity then 0 else h + 1 := by
  rw [advance_eq_mod]
  split
  · next hC => rw [hC, Nat.mod_self]
  · next hC => exact Nat.mod_eq_of_lt (by omega)

/-- Two indices with the same successor are the same. -/
theorem advance_inj (hh : h < cfg.capacity) (ht : t < cfg.capacity) : advance cfg h = advance cfg t ↔ h = t := by
  rw [advance_eq_ite hh, advance_eq_ite ht]
  split <;> split <;> omega

/-- The length is below the capacity (R104). -/
theorem len_lt (hh : h < cfg.capacity) (t : Nat) : len cfg h t < cfg.capacity := by
  unfold len
  split <;> omega

/-- Equal indices have length 0. -/
@[simp] theorem len_self (cfg : Config) (h : Nat) : len cfg h h = 0 := by simp [len]

/-- The length is 0 exactly for equal indices (R106). -/
theorem len_eq_zero_iff (ht : t < cfg.capacity) : len cfg h t = 0 ↔ h = t := by
  unfold len
  split <;> omega

/-- Moving `head` past a free slot makes the length one more. -/
theorem len_advance_head (hh : h < cfg.capacity) (ht : t < cfg.capacity) (hfree : advance cfg h ≠ t) :
    len cfg (advance cfg h) t = len cfg h t + 1 := by
  rw [advance_eq_ite hh] at hfree ⊢
  unfold len
  split_ifs at hfree ⊢ <;> omega

/-- Moving `tail` past an element makes the length one less. -/
theorem len_advance_tail (hh : h < cfg.capacity) (ht : t < cfg.capacity) (hne : h ≠ t) :
    len cfg h t = len cfg h (advance cfg t) + 1 := by
  rw [advance_eq_ite ht]
  unfold len
  split_ifs <;> omega

/-- The slot one length past `tail` is `head`. -/
theorem tail_add_len_mod (hh : h < cfg.capacity) (ht : t < cfg.capacity) : (t + len cfg h t) % cfg.capacity = h := by
  unfold len
  split
  · next hle => rw [Nat.add_sub_cancel' hle, Nat.mod_eq_of_lt hh]
  · next hlt =>
    rw [show t + (cfg.capacity - (t - h)) = h + cfg.capacity by omega, Nat.add_mod_right, Nat.mod_eq_of_lt hh]

/-- Different positions of one lap are different slots. -/
theorem slot_ne_of_lt {j k : Nat} (hjk : j < k) (hk : k < cfg.capacity) :
    (t + j) % cfg.capacity ≠ (t + k) % cfg.capacity := by
  intro heq
  have hmod : j % cfg.capacity = k % cfg.capacity := Nat.ModEq.add_left_cancel' t heq
  rw [Nat.mod_eq_of_lt (by omega), Nat.mod_eq_of_lt hk] at hmod
  omega

/-- `head` is no slot of the logical range. -/
theorem logical_slot_ne_head (hh : h < cfg.capacity) (ht : t < cfg.capacity) {k : Nat} (hk : k < len cfg h t) :
    (t + k) % cfg.capacity ≠ h := by
  have hne := slot_ne_of_lt (t := t) hk (len_lt hh t)
  rwa [tail_add_len_mod hh ht] at hne

/-- Counting from the successor is counting one further. -/
theorem advance_add_mod (cfg : Config) (t k : Nat) :
    (advance cfg t + k) % cfg.capacity = (t + (k + 1)) % cfg.capacity := by
  rw [advance_eq_mod, Nat.mod_add_mod, Nat.add_assoc, Nat.add_comm 1 k]

end Indices

end Sys2Proof.Machine
end

section
/-! PROOFS. The logical contents under each update of the buffer (R25), and what no update of the ports changes. -/

namespace Sys2Proof.Machine

/-- PUSH's slot write: the slot `head` names takes the operand (R121, R122). -/
def writeHead (v : Nat) (s : State) : State := { s with slots := setSlot s.slots s.head (fitWidth s.cfg v) }

/-- PUSH's publication of `head` (R63). -/
def advanceHead (s : State) : State := storeIdx .head (advance s.cfg s.head) s

/-- The publication of `tail`: POP's, and an overwriting PUSH's (R64, R121). -/
def advanceTail (s : State) : State := storeIdx .tail (advance s.cfg s.tail) s

/-- Both indices to 0, as CLEAR sets them (R141). -/
def clearIndices (s : State) : State := storeIdx .tail 0 (storeIdx .head 0 s)

section Fields
variable (s : State) (v : Nat) (p : PortId)

@[simp] theorem writeHead_cfg : (writeHead v s).cfg = s.cfg := rfl
@[simp] theorem writeHead_head : (writeHead v s).head = s.head := rfl
@[simp] theorem writeHead_tail : (writeHead v s).tail = s.tail := rfl
@[simp] theorem writeHead_slots : (writeHead v s).slots = setSlot s.slots s.head (fitWidth s.cfg v) := rfl
@[simp] theorem writeHead_iters : (writeHead v s).iters = s.iters := rfl
@[simp] theorem writeHead_modelFault : (writeHead v s).modelFault = s.modelFault := rfl
@[simp] theorem portAt_writeHead : portAt (writeHead v s) p = portAt s p := portAt_withSlots ..
@[simp] theorem activePort_writeHead : activePort (writeHead v s) = activePort s := rfl

@[simp] theorem advanceHead_cfg : (advanceHead s).cfg = s.cfg := rfl
@[simp] theorem advanceHead_head : (advanceHead s).head = advance s.cfg s.head := rfl
@[simp] theorem advanceHead_tail : (advanceHead s).tail = s.tail := rfl
@[simp] theorem advanceHead_slots : (advanceHead s).slots = s.slots := rfl
@[simp] theorem advanceHead_iters : (advanceHead s).iters = s.iters := rfl
@[simp] theorem advanceHead_modelFault : (advanceHead s).modelFault = s.modelFault := rfl
@[simp] theorem portAt_advanceHead : portAt (advanceHead s) p = portAt s p := portAt_storeIdx ..
@[simp] theorem activePort_advanceHead : activePort (advanceHead s) = activePort s := rfl

@[simp] theorem advanceTail_cfg : (advanceTail s).cfg = s.cfg := rfl
@[simp] theorem advanceTail_head : (advanceTail s).head = s.head := rfl
@[simp] theorem advanceTail_tail : (advanceTail s).tail = advance s.cfg s.tail := rfl
@[simp] theorem advanceTail_slots : (advanceTail s).slots = s.slots := rfl
@[simp] theorem advanceTail_iters : (advanceTail s).iters = s.iters := rfl
@[simp] theorem advanceTail_modelFault : (advanceTail s).modelFault = s.modelFault := rfl
@[simp] theorem portAt_advanceTail : portAt (advanceTail s) p = portAt s p := portAt_storeIdx ..
@[simp] theorem activePort_advanceTail : activePort (advanceTail s) = activePort s := rfl

@[simp] theorem clearIndices_cfg : (clearIndices s).cfg = s.cfg := rfl
@[simp] theorem clearIndices_head : (clearIndices s).head = 0 := rfl
@[simp] theorem clearIndices_tail : (clearIndices s).tail = 0 := rfl
@[simp] theorem clearIndices_slots : (clearIndices s).slots = s.slots := rfl
@[simp] theorem clearIndices_iters : (clearIndices s).iters = s.iters := rfl
@[simp] theorem clearIndices_modelFault : (clearIndices s).modelFault = s.modelFault := rfl
@[simp] theorem portAt_clearIndices : portAt (clearIndices s) p = portAt s p := by simp [clearIndices]
@[simp] theorem activePort_clearIndices : activePort (clearIndices s) = activePort s := rfl

end Fields

/-- `t` has the tuple, the buffer and the iterator contexts of `s`: only ports and the model's own fields may differ. -/
structure SameBlock (s t : State) : Prop where
  cfg : t.cfg = s.cfg
  head : t.head = s.head
  tail : t.tail = s.tail
  slots : t.slots = s.slots
  iters : t.iters = s.iters

section SameBlock
variable (s : State)

theorem sameBlock_setPort (p : PortId) (x : PortState) : SameBlock s (setPort s p x) := by constructor <;> simp
theorem sameBlock_respond (r : Response) : SameBlock s (respond r s) := sameBlock_setPort ..
theorem sameBlock_continueWith (l : Locals) : SameBlock s (continueWith l s) := by constructor <;> simp
theorem sameBlock_recordFault (f : ModelFault) : SameBlock s (recordFault f s) := by constructor <;> simp
theorem sameBlock_edge : SameBlock s (edge s) := ⟨rfl, rfl, rfl, rfl, rfl⟩

end SameBlock

/-- The logical contents are a function of the tuple, the indices and the storage. -/
theorem SameBlock.contents_eq {s t : State} (h : SameBlock s t) : contents t = contents s := by
  simp only [contents, h.cfg, h.head, h.tail, h.slots]

section Contents
variable (s : State)

@[simp] theorem contents_respond (r : Response) : contents (respond r s) = contents s :=
  (sameBlock_respond s r).contents_eq
@[simp] theorem contents_continueWith (l : Locals) : contents (continueWith l s) = contents s :=
  (sameBlock_continueWith s l).contents_eq
@[simp] theorem contents_setIter (k : CtxNum) (x : IterCtx) : contents (setIter s k x) = contents s := rfl
@[simp] theorem contents_respondIllegal : contents (respondIllegal s) = contents s := contents_respond ..

/-- The logical contents have the length of the logical range. -/
@[simp] theorem length_contents : (contents s).length = len s.cfg s.head s.tail := by simp [contents, contentsOf]

/-- Equal indices leave nothing in the buffer. -/
theorem contents_eq_nil (h : s.head = s.tail) : contents s = [] := by simp [contents, contentsOf, h]

/-- CLEAR leaves nothing in the buffer. -/
@[simp] theorem contents_clearIndices : contents (clearIndices s) = [] := contents_eq_nil _ rfl

end Contents

section Updates
variable {s : State} (hidx : IndicesInRange s)
include hidx

/-- With one slot the buffer is always empty (R109). -/
theorem contents_eq_nil_of_single_slot (hC : s.cfg.capacity = 1) : contents s = [] :=
  contents_eq_nil s (by obtain ⟨hh, ht⟩ := hidx; omega)

/-- Writing the slot `head` names changes no element of the buffer. -/
theorem contents_writeHead (v : Nat) : contents (writeHead v s) = contents s := by
  refine List.map_congr_left fun k hk => ?_
  exact slotAt_setSlot_other _ _ (logical_slot_ne_head hidx.1 hidx.2 (List.mem_range.1 hk))

/-- Publishing `head` appends what its slot holds. -/
theorem contents_advanceHead (hfree : advance s.cfg s.head ≠ s.tail) :
    contents (advanceHead s) = contents s ++ [slotAt s.slots s.head] := by
  simp only [contents, contentsOf, advanceHead_cfg, advanceHead_head, advanceHead_tail, advanceHead_slots,
    len_advance_head hidx.1 hidx.2 hfree, List.range_succ, List.map_append, List.map_cons, List.map_nil,
    tail_add_len_mod hidx.1 hidx.2]

/-- Publishing `tail` takes what its slot holds from the front. -/
theorem contents_eq_cons_advanceTail (hne : s.head ≠ s.tail) :
    contents s = slotAt s.slots s.tail :: contents (advanceTail s) := by
  simp only [contents, contentsOf, advanceTail_cfg, advanceTail_head, advanceTail_tail, advanceTail_slots,
    len_advance_tail hidx.1 hidx.2 hne, List.range_succ_eq_map, List.map_cons, List.map_map, Nat.add_zero,
    Nat.mod_eq_of_lt hidx.2]
  congr 1
  exact List.map_congr_left fun k _ => congrArg _ (advance_add_mod ..).symm

end Updates

end Sys2Proof.Machine
end

section
/-! PROOFS. The invariant in three parts: the buffer, the responses, and what each port's command in progress relies
on. -/

namespace Sys2Proof.Machine

/-- The part of `Inv` that speaks of the indices, the storage and the iterator contexts. -/
structure BufferOk (s : State) : Prop where
  indices : IndicesInRange s
  storage : StorageOk s
  contexts : ContextsOk s
  logical : LogicalWritten s
  snapshots : ContextsWritten s

/-- The part of `Inv` that speaks of the phase of port `p`. -/
def PhaseOk (s : State) (p : PortId) : Prop :=
  match p with
  | .main => s.main.phase = .idle
  | .prod => (s.cfg.threadSafe = false → s.prod.phase = .idle) ∧ prodPhaseOk s = true
  | .cons => (s.cfg.threadSafe = false → s.cons.phase = .idle) ∧ consPhaseOk s = true

/-- The invariant is its three parts. -/
theorem inv_iff (s : State) :
    Inv s ↔ BufferOk s ∧ (∀ p, PortFits s.cfg (portAt s p)) ∧ ∀ p, PhaseOk s p := by
  constructor
  · rintro ⟨hidx, hst, hctx, hlog, hsnap, hmain, hprod, hcons, ⟨himain, hiside⟩, hpp, hcp⟩
    refine ⟨⟨hidx, hst, hctx, hlog, hsnap⟩, fun p => ?_, fun p => ?_⟩
    · cases p <;> assumption
    · cases p with
      | main => exact himain
      | prod => exact ⟨fun h => (hiside h).1, hpp⟩
      | cons => exact ⟨fun h => (hiside h).2, hcp⟩
  · rintro ⟨⟨hidx, hst, hctx, hlog, hsnap⟩, hfits, hphase⟩
    obtain ⟨hip, hpp⟩ := hphase .prod
    obtain ⟨hic, hcp⟩ := hphase .cons
    exact ⟨hidx, hst, hctx, hlog, hsnap, hfits .main, hfits .prod, hfits .cons,
      ⟨hphase .main, fun h => ⟨hip h, hic h⟩⟩, hpp, hcp⟩

/-! ### The buffer under each update -/

/-- A write unwrites no slot (R21). -/
theorem slotAt_setSlot_ne_none {m : Memory} {a : Nat} (b v : Nat) (h : slotAt m a ≠ none) :
    slotAt (setSlot m b v) a ≠ none := by
  by_cases hab : a = b
  · simp [hab]
  · rwa [slotAt_setSlot_other m v hab]

/-- The same for the form the invariant has. -/
theorem isSome_slotAt_setSlot {m : Memory} {a : Nat} (b v : Nat) (h : (slotAt m a).isSome = true) :
    (slotAt (setSlot m b v) a).isSome = true := by
  rw [Option.isSome_iff_ne_none] at h ⊢
  exact slotAt_setSlot_ne_none b v h

/-- Every slot of the logical range is written exactly if every element of the contents is a value. -/
theorem logicalWritten_iff (s : State) : LogicalWritten s ↔ ∀ x ∈ contents s, x.isSome = true := by
  simp [contents, contentsOf]

/-- An iterator with something left to yield is one of the block's contexts. -/
theorem iterAt_mem {s : State} {k : CtxNum} (h : (iterAt s k).remaining ≠ 0) : iterAt s k ∈ s.iters := by
  unfold iterAt at h ⊢
  cases hk : s.iters[k.toNat]? with
  | none => simp [hk] at h
  | some x => exact List.mem_of_getElem? hk

section BufferOk
variable {s : State} (hs : BufferOk s)
include hs

theorem BufferOk.capacity_pos : 0 < s.cfg.capacity := by
  obtain ⟨hh, -⟩ := hs.indices
  omega

/-- A value read from a slot fits W bits. -/
theorem BufferOk.slot_lt {a v : Nat} (h : slotAt s.slots a = some v) : v < 2 ^ s.cfg.dataWidth :=
  (hs.storage.2 _ (mem_of_slotAt h)).2

/-- In a buffer that is not empty the slot of `tail` holds a value. -/
theorem BufferOk.exists_oldest (hne : s.head ≠ s.tail) : ∃ v, slotAt s.slots s.tail = some v := by
  have hmem : slotAt s.slots s.tail ∈ contents s := by
    simp [contents_eq_cons_advanceTail hs.indices hne]
  exact Option.isSome_iff_exists.1 ((logicalWritten_iff s).1 hs.logical _ hmem)

theorem BufferOk.congr {t : State} (h : SameBlock s t) : BufferOk t where
  indices := by simpa only [IndicesInRange, h.cfg, h.head, h.tail] using hs.indices
  storage := by simpa only [StorageOk, h.cfg, h.slots] using hs.storage
  contexts := by simpa only [ContextsOk, h.cfg, h.iters] using hs.contexts
  logical := by simpa only [LogicalWritten, h.cfg, h.head, h.tail, h.slots] using hs.logical
  snapshots := by simpa only [ContextsWritten, h.cfg, h.slots, h.iters] using hs.snapshots

theorem BufferOk.writeHead (v : Nat) : BufferOk (writeHead v s) where
  indices := hs.indices
  storage := by
    refine ⟨memoryWf_setSlot _ _ _ hs.storage.1, fun x hx => ?_⟩
    obtain rfl | hx := mem_setSlot hx
    · exact ⟨hs.indices.1, fitWidth_lt ..⟩
    · exact hs.storage.2 x hx
  contexts := hs.contexts
  logical := fun k hk => isSome_slotAt_setSlot _ _ (hs.logical k hk)
  snapshots := fun x hx j hj => isSome_slotAt_setSlot _ _ (hs.snapshots x hx j hj)

theorem BufferOk.advanceHead (hfree : advance s.cfg s.head ≠ s.tail) (hslot : (slotAt s.slots s.head).isSome = true) :
    BufferOk (advanceHead s) where
  indices := ⟨advance_lt hs.capacity_pos _, hs.indices.2⟩
  storage := hs.storage
  contexts := hs.contexts
  logical := by
    rw [logicalWritten_iff, contents_advanceHead hs.indices hfree]
    intro x hx
    obtain hx | hx := List.mem_append.1 hx
    · exact (logicalWritten_iff s).1 hs.logical x hx
    · rwa [List.mem_singleton.1 hx]
  snapshots := hs.snapshots

theorem BufferOk.advanceTail (hne : s.head ≠ s.tail) : BufferOk (advanceTail s) where
  indices := ⟨hs.indices.1, advance_lt hs.capacity_pos _⟩
  storage := hs.storage
  contexts := hs.contexts
  logical := by
    rw [logicalWritten_iff]
    intro x hx
    exact (logicalWritten_iff s).1 hs.logical x
      (by rw [contents_eq_cons_advanceTail hs.indices hne]; exact List.mem_cons_of_mem _ hx)
  snapshots := hs.snapshots

theorem BufferOk.clearIndices : BufferOk (clearIndices s) where
  indices := ⟨hs.capacity_pos, hs.capacity_pos⟩
  storage := hs.storage
  contexts := hs.contexts
  logical := by simp [logicalWritten_iff]
  snapshots := hs.snapshots

theorem BufferOk.setIter (k : CtxNum) {x : IterCtx} (hcur : x.cursor < s.cfg.capacity)
    (hrem : x.remaining ≤ s.cfg.capacity - 1)
    (hslots : ∀ j < x.remaining, (slotAt s.slots ((x.cursor + j) % s.cfg.capacity)).isSome = true) :
    BufferOk (setIter s k x) where
  indices := hs.indices
  storage := hs.storage
  contexts := by
    refine ⟨by simpa using hs.contexts.1, fun y hy => ?_⟩
    obtain hy | rfl := List.mem_or_eq_of_mem_set hy
    · exact hs.contexts.2 y hy
    · exact ⟨hcur, hrem⟩
  logical := hs.logical
  snapshots := fun y hy => by
    obtain hy | rfl := List.mem_or_eq_of_mem_set hy
    · exact hs.snapshots y hy
    · exact hslots

end BufferOk

/-! ### What a command in progress relies on -/

/-- A local copy of `head` that is in range and not ahead of `head` (R70). -/
def SeenHead (s : State) (h : Nat) : Prop :=
  h < s.cfg.capacity ∧ len s.cfg h s.tail ≤ len s.cfg s.head s.tail

theorem staleHeadOk_iff (s : State) (x : Option Nat) : staleHeadOk s x = true ↔ ∃ h, x = some h ∧ SeenHead s h := by
  cases x <;> simp [staleHeadOk, SeenHead]

/-- A fresh copy of `head`. -/
theorem seenHead_head {s : State} (hidx : IndicesInRange s) : SeenHead s s.head := ⟨hidx.1, le_rfl⟩

/-- What the command `i` relies on at micro-step `j >= 2` on PROD. -/
def ProdRelies (s : State) (j : Nat) (l : Locals) (i : Instr) : Prop :=
  match i with
  | .push v => l.h = some s.head ∧ l.n = some (advance s.cfg s.head) ∧
      (j = 2 ∨ advance s.cfg s.head ≠ s.tail ∧ (j = 3 ∨ j = 4 ∧ slotAt s.slots s.head = some v))
  | .isEmpty | .isFull | .len => j = 2 ∧ l.h = some s.head
  | .nop | .clear | .pop | .peek | .iterCreate _ | .iterNext _ => False

/-- What the command `i` relies on at micro-step `j >= 2` on CONS. -/
def ConsRelies (s : State) (j : Nat) (l : Locals) (i : Instr) : Prop :=
  match i with
  | .pop => (j = 2 ∧ ∃ h, l.h = some h ∧ SeenHead s h) ∨
      l.t = some s.tail ∧ s.head ≠ s.tail ∧
        (j = 3 ∨ j = 4 ∧ ∃ v, l.v = some v ∧ slotAt s.slots s.tail = some v)
  | .peek => (j = 2 ∧ ∃ h, l.h = some h ∧ SeenHead s h) ∨ l.t = some s.tail ∧ s.head ≠ s.tail ∧ j = 3
  | .isEmpty | .isFull | .len | .iterCreate _ => j = 2 ∧ ∃ h, l.h = some h ∧ SeenHead s h
  | .nop | .clear | .push _ | .iterNext _ => False

/-- What the command `i` relies on at micro-step `j >= 2` on port `p`. -/
def Relies (s : State) (p : PortId) (j : Nat) (l : Locals) (i : Instr) : Prop :=
  match p with
  | .main => False
  | .prod => ProdRelies s j l i
  | .cons => ConsRelies s j l i

/-- A command relies on something from its second micro-step on. -/
theorem Relies.two_le {s : State} {p : PortId} {j : Nat} {l : Locals} {i : Instr} (h : Relies s p j l i) : 2 ≤ j := by
  cases p <;> cases i <;> simp only [Relies, ProdRelies, ConsRelies] at h <;> omega

section Phase
variable {s t : State} {p : PortId} {c : Command} {j : Nat} {l : Locals} {i : Instr}

/-- The invariant's check of a busy PROD, read through `ProdRelies`. -/
theorem prodPhaseOk_busy (hp : s.prod.phase = .busy c j l) :
    prodPhaseOk s = true ↔
      c.data < 2 ^ s.cfg.dataWidth ∧ (j = 1 ∨ ∃ i, decodeAt s.cfg .prod c = some i ∧ ProdRelies s j l i) := by
  simp only [prodPhaseOk, hp, Bool.and_eq_true, Bool.or_eq_true, decide_eq_true_eq]
  cases decodeAt s.cfg .prod c with
  | none => simp
  | some i => cases i <;> simp [ProdRelies, and_assoc]

/-- The invariant's check of a busy CONS, read through `ConsRelies`. -/
theorem consPhaseOk_busy (hp : s.cons.phase = .busy c j l) :
    consPhaseOk s = true ↔
      c.data < 2 ^ s.cfg.dataWidth ∧ (j = 1 ∨ ∃ i, decodeAt s.cfg .cons c = some i ∧ ConsRelies s j l i) := by
  simp only [consPhaseOk, hp, Bool.and_eq_true, Bool.or_eq_true, decide_eq_true_eq]
  cases decodeAt s.cfg .cons c with
  | none => simp
  | some i =>
    have hv : l.v.isSome = true ∧ slotAt s.slots s.tail = l.v ↔
        ∃ v, l.v = some v ∧ slotAt s.slots s.tail = some v := by cases l.v <;> simp
    cases i <;> simp [ConsRelies, staleHeadOk_iff, and_assoc, hv]

/-- An idle port relies on nothing. -/
theorem phaseOk_of_idle (hp : (portAt s p).phase = .idle) : PhaseOk s p := by
  cases p with
  | main => exact hp
  | prod => exact ⟨fun _ => hp, by simp only [portAt] at hp; simp [prodPhaseOk, hp]⟩
  | cons => exact ⟨fun _ => hp, by simp only [portAt] at hp; simp [consPhaseOk, hp]⟩

/-- When THREAD_SAFE = 0 no port holds a command (R60). -/
theorem PhaseOk.idle (h : PhaseOk s p) (hts : s.cfg.threadSafe = false) : (portAt s p).phase = .idle := by
  cases p with
  | main => exact h
  | prod => exact h.1 hts
  | cons => exact h.1 hts

/-- What a busy port relies on. -/
theorem phaseOk_busy_iff (hm : p ≠ .main) (hp : (portAt s p).phase = .busy c j l) :
    PhaseOk s p ↔ s.cfg.threadSafe = true ∧ c.data < 2 ^ s.cfg.dataWidth ∧
      (j = 1 ∨ ∃ i, decodeAt s.cfg p c = some i ∧ Relies s p j l i) := by
  cases p with
  | main => exact absurd rfl hm
  | prod => simp only [portAt] at hp; simp [PhaseOk, prodPhaseOk_busy hp, hp, Relies]
  | cons => simp only [portAt] at hp; simp [PhaseOk, consPhaseOk_busy hp, hp, Relies]

/-- MAIN is never busy. -/
theorem PhaseOk.ne_main (h : PhaseOk s p) (hp : (portAt s p).phase = .busy c j l) : p ≠ .main := by
  rintro rfl
  simp only [PhaseOk] at h
  simp [portAt, h] at hp

/-- A phase that is untouched stays in order if what it relies on still holds. -/
theorem PhaseOk.mono (h : PhaseOk s p) (hcfg : t.cfg = s.cfg) (hport : (portAt t p).phase = (portAt s p).phase)
    (hrel : ∀ j l i, Relies s p j l i → Relies t p j l i) : PhaseOk t p := by
  cases hp : (portAt s p).phase with
  | idle => exact phaseOk_of_idle (hport.trans hp)
  | busy c j l =>
    have hm := h.ne_main hp
    obtain ⟨hts, hdata, hj⟩ := (phaseOk_busy_iff hm hp).1 h
    rw [phaseOk_busy_iff hm (hport.trans hp), hcfg]
    exact ⟨hts, hdata, hj.imp_right fun ⟨i, hi, hr⟩ => ⟨i, hi, hrel _ _ _ hr⟩⟩

/-- What a command relies on is read from the tuple, the indices and the storage. -/
theorem SameBlock.relies_iff (h : SameBlock s t) : Relies t p j l i ↔ Relies s p j l i := by
  cases p <;> cases i <;>
    simp only [Relies, ProdRelies, ConsRelies, SeenHead, h.cfg, h.head, h.tail, h.slots]

/-- An untouched phase stays in order while the block stays the same. -/
theorem PhaseOk.congr (h : PhaseOk s p) (hst : SameBlock s t) (hport : (portAt t p).phase = (portAt s p).phase) :
    PhaseOk t p :=
  h.mono hst.cfg hport fun _ _ _ => hst.relies_iff.2

/-- A port that is not in flight relies on nothing the buffer holds (R142). -/
theorem PhaseOk.of_not_inFlight (h : PhaseOk s p) (hfl : inFlight (portAt s p) = false) (hcfg : t.cfg = s.cfg)
    (hport : (portAt t p).phase = (portAt s p).phase) : PhaseOk t p := by
  cases hp : (portAt s p).phase with
  | idle => exact phaseOk_of_idle (hport.trans hp)
  | busy c j l =>
    have hm := h.ne_main hp
    obtain ⟨hts, hdata, hj⟩ := (phaseOk_busy_iff hm hp).1 h
    rw [phaseOk_busy_iff hm (hport.trans hp), hcfg]
    refine ⟨hts, hdata, .inl ?_⟩
    simp only [inFlight, hp, decide_eq_false_iff_not] at hfl
    obtain rfl | ⟨i, -, hr⟩ := hj
    · rfl
    · exact absurd hr.two_le hfl

end Phase

end Sys2Proof.Machine
end

section
/-! PROOFS. Which command a busy port runs, and the outcome of each command: whole commands, then micro-steps. -/

namespace Sys2Proof.Machine

/-! ### The port that moves, and the command it runs -/

theorem activePort_of_whole {s : State} (hts : s.cfg.threadSafe = false) : activePort s = .main := by
  simp [activePort, hts]

theorem activePort_ne_main {s : State} (hts : s.cfg.threadSafe = true) : activePort s ≠ .main := by
  simp only [activePort, hts, if_true]
  split <;> simp

theorem admitted_iff (cfg : Config) (p : PortId) (i : Instr) :
    admitted cfg p i = true ↔ permitted p i = true ∧ contextExists cfg i = true := by
  simp [admitted]

theorem admitted_nop (cfg : Config) (p : PortId) : admitted cfg p .nop = true := rfl
theorem admitted_clear (cfg : Config) (p : PortId) : admitted cfg p .clear = true := rfl

/-- A command word means `i` on a port exactly if it decodes to `i` and the port runs `i` (R87). -/
theorem decodeAt_eq_some_iff {cfg : Config} {p : PortId} {c : Command} {i : Instr} :
    decodeAt cfg p c = some i ↔ decode c = .ok i ∧ admitted cfg p i = true := by
  unfold decodeAt
  cases decode c with
  | error e => simp
  | ok i' =>
    simp only [Except.ok.injEq, admitted_iff, Option.ite_none_right_eq_some, Option.some.injEq]
    constructor
    · rintro ⟨hp, hc, rfl⟩
      exact ⟨rfl, hp, hc⟩
    · rintro ⟨rfl, hp, hc⟩
      exact ⟨hp, hc, rfl⟩

/-- PUSH's operand is the data the port holds (R85). -/
theorem data_of_decode_push {c : Command} {v : Nat} (h : decode c = .ok (.push v)) : c.data = v := by
  unfold decode at h
  split at h <;> cases h
  rfl

/-! ### Outcomes -/

section Outcomes
variable {s : State} {v : Nat}

theorem whenAdmitted_of_admitted {i : Instr} (k : Result) (h : admitted s.cfg (activePort s) i = true) :
    whenAdmitted i s k = k := by simp [whenAdmitted, h]

/-- A command the port does not run is answered ILLEGAL (R86, R84). -/
theorem exec_of_not_admitted {i : Instr} (h : admitted s.cfg (activePort s) i = false) :
    exec i s = .next (respondIllegal s) := by
  cases i <;>
    simp [exec, execNop, execPush, execPop, execPeek, execClear, execIsEmpty, execIsFull, execLen, execIterCreate,
      execIterNext, whenAdmitted, h]

theorem exec_push (h : admitted s.cfg (activePort s) (.push v) = true) :
    exec (.push v) s = if s.cfg.threadSafe then pushMicro v s else pushWhole v s := whenAdmitted_of_admitted _ h

theorem exec_pop (h : admitted s.cfg (activePort s) .pop = true) :
    exec .pop s = if s.cfg.threadSafe then popMicro s else popWhole s := whenAdmitted_of_admitted _ h

theorem exec_peek (h : admitted s.cfg (activePort s) .peek = true) :
    exec .peek s = if s.cfg.threadSafe then peekMicro s else peekWhole s := whenAdmitted_of_admitted _ h

theorem exec_nop : exec .nop s = .next (respond { status := .ok } s) :=
  whenAdmitted_of_admitted _ (admitted_nop s.cfg (activePort s))

/-- CLEAR, by whether it meets the other port in flight. -/
theorem exec_clear_eq :
    exec .clear s =
      if s.cfg.threadSafe && inFlight (portAt s (otherPort (activePort s))) then .next (recordFault .clearRace s)
      else .next (respond { status := .ok } (clearIndices s)) :=
  whenAdmitted_of_admitted _ (admitted_clear s.cfg (activePort s))

/-- CLEAR that meets the other port in flight (R142). -/
theorem exec_clear_race (h : (s.cfg.threadSafe && inFlight (portAt s (otherPort (activePort s)))) = true) :
    exec .clear s = .next (recordFault .clearRace s) := exec_clear_eq.trans (if_pos h)

/-- CLEAR otherwise (R141, R142). -/
theorem exec_clear (h : (s.cfg.threadSafe && inFlight (portAt s (otherPort (activePort s)))) = false) :
    exec .clear s = .next (respond { status := .ok } (clearIndices s)) := exec_clear_eq.trans (if_neg (by simp [h]))

theorem exec_isEmpty (h : admitted s.cfg (activePort s) .isEmpty = true) :
    exec .isEmpty s = loadBoth s fun h t s' => respond { status := .ok, flag := isEmpty h t } s' :=
  whenAdmitted_of_admitted _ h

theorem exec_isFull (h : admitted s.cfg (activePort s) .isFull = true) :
    exec .isFull s = loadBoth s fun h t s' => respond { status := .ok, flag := isFull s'.cfg h t } s' :=
  whenAdmitted_of_admitted _ h

theorem exec_len (h : admitted s.cfg (activePort s) .len = true) :
    exec .len s = loadBoth s fun h t s' => respond { status := .ok, count := len s'.cfg h t } s' :=
  whenAdmitted_of_admitted _ h

theorem exec_iterCreate {k : CtxNum} (h : admitted s.cfg (activePort s) (.iterCreate k) = true) :
    exec (.iterCreate k) s = loadBoth s fun h t s' =>
      respond { status := .ok, count := len s'.cfg h t }
        (setIter s' k { cursor := t, remaining := len s'.cfg h t }) :=
  whenAdmitted_of_admitted _ h

theorem exec_iterNext_done {k : CtxNum} (h : admitted s.cfg (activePort s) (.iterNext k) = true)
    (hrem : (iterAt s k).remaining = 0) : exec (.iterNext k) s = .next (respond { status := .iterDone } s) :=
  (whenAdmitted_of_admitted _ h).trans (if_pos hrem)

theorem exec_iterNext_value {k : CtxNum} (h : admitted s.cfg (activePort s) (.iterNext k) = true)
    (hrem : (iterAt s k).remaining ≠ 0) (hcur : (iterAt s k).cursor < s.cfg.capacity)
    (hslot : slotAt s.slots (iterAt s k).cursor = some v) :
    exec (.iterNext k) s = .next (respond { status := .ok, data := v }
      (setIter s k { cursor := advance s.cfg (iterAt s k).cursor, remaining := (iterAt s k).remaining - 1 })) :=
  (whenAdmitted_of_admitted _ h).trans ((if_neg hrem).trans (memRead_some _ hcur hslot))

/-! Whole commands (R121, R127, R133). -/

theorem pushWhole_room (hh : s.head < s.cfg.capacity) (hfree : advance s.cfg s.head ≠ s.tail) :
    pushWhole v s = .next (respond { status := .ok } (advanceHead (writeHead v s))) := by
  simp only [pushWhole, loadIdx_head, loadIdx_tail, if_neg hfree, memWrite_lt _ hh]
  rfl

theorem pushWhole_full (hfull : advance s.cfg s.head = s.tail) (hov : s.cfg.overwriteOnFull = false) :
    pushWhole v s = .next (respond { status := .bufferFull } s) := by
  simp [pushWhole, hfull, hov]

theorem pushWhole_overwrite (hh : s.head < s.cfg.capacity) (hfull : advance s.cfg s.head = s.tail)
    (hov : s.cfg.overwriteOnFull = true) :
    pushWhole v s = .next (respond { status := .ok } (advanceHead (writeHead v (advanceTail s)))) := by
  simp only [pushWhole, loadIdx_head, loadIdx_tail, if_pos hfull, hov, if_true]
  exact memWrite_lt (s := advanceTail s) _ hh

theorem popWhole_empty (he : s.head = s.tail) : popWhole s = .next (respond { status := .bufferEmpty } s) := by
  simp [popWhole, he]

theorem popWhole_value (ht : s.tail < s.cfg.capacity) (hne : s.head ≠ s.tail) (hslot : slotAt s.slots s.tail = some v) :
    popWhole s = .next (respond { status := .ok, data := v } (advanceTail s)) := by
  simp only [popWhole, loadIdx_head, loadIdx_tail, if_neg hne.symm, memRead_some _ ht hslot]
  rfl

theorem peekWhole_empty (he : s.head = s.tail) : peekWhole s = .next (respond { status := .bufferEmpty } s) := by
  simp [peekWhole, he]

theorem peekWhole_value (ht : s.tail < s.cfg.capacity) (hne : s.head ≠ s.tail)
    (hslot : slotAt s.slots s.tail = some v) : peekWhole s = .next (respond { status := .ok, data := v } s) := by
  simp only [peekWhole, loadIdx_head, loadIdx_tail, if_neg hne.symm, memRead_some _ ht hslot]

/-! Micro-steps (R122, R128, R134). -/

variable {c : Command} {l : Locals} {h n t : Nat}

theorem pushMicro_s1 (hp : (portAt s (activePort s)).phase = .busy c 1 l) :
    pushMicro v s = .next (continueWith { l with h := some s.head, n := some (advance s.cfg s.head) } s) :=
  microStep_busy _ hp

theorem pushMicro_s2_full (hp : (portAt s (activePort s)).phase = .busy c 2 l) (hn : l.n = some n)
    (hfull : n = s.tail) :
    pushMicro v s = .next (respond { status := .bufferFull } s) := by
  simp [pushMicro, microStep_busy _ hp, withLocal, hn, hfull]

theorem pushMicro_s2_room (hp : (portAt s (activePort s)).phase = .busy c 2 l) (hn : l.n = some n)
    (hfree : n ≠ s.tail) : pushMicro v s = .next (continueWith { l with t := some s.tail } s) := by
  simp [pushMicro, microStep_busy _ hp, withLocal, hn, hfree]

theorem pushMicro_s3 (hp : (portAt s (activePort s)).phase = .busy c 3 l) (hl : l.h = some s.head)
    (hh : s.head < s.cfg.capacity) : pushMicro v s = .next (continueWith l (writeHead v s)) := by
  simp only [pushMicro, microStep_busy _ hp, withLocal, hl, memWrite_lt _ hh]
  rfl

theorem pushMicro_s4 (hp : (portAt s (activePort s)).phase = .busy c 4 l) (hn : l.n = some (advance s.cfg s.head)) :
    pushMicro v s = .next (respond { status := .ok } (advanceHead s)) := by
  simp only [pushMicro, microStep_busy _ hp, withLocal, hn]
  rfl

theorem popMicro_s1 (hp : (portAt s (activePort s)).phase = .busy c 1 l) :
    popMicro s = .next (continueWith { l with h := some s.head } s) :=
  microStep_busy _ hp

theorem popMicro_s2_empty (hp : (portAt s (activePort s)).phase = .busy c 2 l) (hl : l.h = some h) (he : s.tail = h) :
    popMicro s = .next (respond { status := .bufferEmpty } s) := by
  simp [popMicro, microStep_busy _ hp, withLocal, hl, he]

theorem popMicro_s2_some (hp : (portAt s (activePort s)).phase = .busy c 2 l) (hl : l.h = some h) (hne : s.tail ≠ h) :
    popMicro s = .next (continueWith { l with t := some s.tail } s) := by
  simp [popMicro, microStep_busy _ hp, withLocal, hl, hne]

theorem popMicro_s3 (hp : (portAt s (activePort s)).phase = .busy c 3 l) (hl : l.t = some s.tail)
    (ht : s.tail < s.cfg.capacity) (hslot : slotAt s.slots s.tail = some v) :
    popMicro s = .next (continueWith { l with v := some v } s) := by
  simp [popMicro, microStep_busy _ hp, withLocal, hl, memRead_some _ ht hslot]

theorem popMicro_s4 (hp : (portAt s (activePort s)).phase = .busy c 4 l) (hl : l.t = some s.tail) (hv : l.v = some v) :
    popMicro s = .next (respond { status := .ok, data := v } (advanceTail s)) := by
  simp only [popMicro, microStep_busy _ hp, withLocal, hl, hv]
  rfl

/-- PEEK's s1 and s2 are POP's (R134). -/
theorem peekMicro_eq_popMicro {j : Nat} (hp : (portAt s (activePort s)).phase = .busy c j l) (hj : j = 1 ∨ j = 2) :
    peekMicro s = popMicro s := by
  rw [peekMicro, popMicro, microStep_busy _ hp, microStep_busy _ hp]
  obtain rfl | rfl := hj <;> rfl

theorem peekMicro_s3 (hp : (portAt s (activePort s)).phase = .busy c 3 l) (hl : l.t = some s.tail)
    (ht : s.tail < s.cfg.capacity) (hslot : slotAt s.slots s.tail = some v) :
    peekMicro s = .next (respond { status := .ok, data := v } s) := by
  simp [peekMicro, microStep_busy _ hp, withLocal, hl, memRead_some _ ht hslot]

/-! The shape of the queries and ITER_CREATE (R151, R155, R159, R172). -/

variable {fin : Nat → Nat → State → State}

theorem loadBoth_whole (hts : s.cfg.threadSafe = false) : loadBoth s fin = .next (fin s.head s.tail s) := by
  simp [loadBoth, hts]

theorem loadBoth_s1 (hts : s.cfg.threadSafe = true) (hp : (portAt s (activePort s)).phase = .busy c 1 l) :
    loadBoth s fin = .next (continueWith { l with h := some s.head } s) :=
  (if_pos hts).trans (microStep_busy _ hp)

theorem loadBoth_s2 (hts : s.cfg.threadSafe = true) (hp : (portAt s (activePort s)).phase = .busy c 2 l)
    (hl : l.h = some h) : loadBoth s fin = .next (fin h s.tail s) := by
  simp [loadBoth, hts, microStep_busy _ hp, withLocal, hl]

end Outcomes

end Sys2Proof.Machine
end

section
/-! PROOFS. What a command can do from a state with the invariant: it answers a next state, which is one of a few
updates of the buffer with an answer or the next micro-step on the port that moves. -/

namespace Sys2Proof.Machine

/-- The command publishes an index at this micro-step: PUSH's and POP's s4, and CLEAR (R63, R64, R142). -/
def Publishes (s : State) (i : Instr) : Prop :=
  i = .clear ∨ (i = .pop ∨ ∃ v, i = .push v) ∧ ∃ c l, AtMicro s c 4 l

/-- The next states a command can lead to from a state with the invariant. -/
inductive Effect (s : State) : Instr → State → Prop where
  /-- the port does not run the command (R86) -/
  | illegal (i : Instr) (hi : admitted s.cfg (activePort s) i = false) : Effect s i (respondIllegal s)
  /-- an answer that leaves the buffer and the contexts -/
  | answer (i : Instr) (r : Response) (hq : ¬Publishes s i) (hr : ResponseFits s.cfg r) : Effect s i (respond r s)
  /-- a micro-step that loads an index or reads a slot -/
  | goOn (i : Instr) (l : Locals) (hq : ¬Publishes s i) (hphase : PhaseOk (continueWith l s) (activePort s)) :
    Effect s i (continueWith l s)
  /-- PUSH's s3 -/
  | write (v : Nat) (l : Locals) (hp : activePort s = .prod) (hq : ¬Publishes s (.push v))
    (hphase : PhaseOk (continueWith l (writeHead v s)) (activePort s)) :
    Effect s (.push v) (continueWith l (writeHead v s))
  /-- PUSH's s4 -/
  | publish (v : Nat) (hp : activePort s = .prod) (hq : Publishes s (.push v))
    (hfree : advance s.cfg s.head ≠ s.tail) (hslot : slotAt s.slots s.head = some v) :
    Effect s (.push v) (respond { status := .ok } (advanceHead s))
  /-- a whole PUSH with room -/
  | pushWhole (v : Nat) (hts : s.cfg.threadSafe = false) (hfree : advance s.cfg s.head ≠ s.tail) :
    Effect s (.push v) (respond { status := .ok } (advanceHead (writeHead v s)))
  /-- a whole PUSH that drops the oldest element -/
  | overwrite (v : Nat) (hts : s.cfg.threadSafe = false) (hfull : advance s.cfg s.head = s.tail) :
    Effect s (.push v) (respond { status := .ok } (advanceHead (writeHead v (advanceTail s))))
  /-- a whole POP, and POP's s4 -/
  | take (v : Nat) (hp : activePort s ≠ .prod) (hq : s.cfg.threadSafe = true → Publishes s .pop)
    (hne : s.head ≠ s.tail) (hslot : slotAt s.slots s.tail = some v) :
    Effect s .pop (respond { status := .ok, data := v } (advanceTail s))
  /-- CLEAR -/
  | clear (hother : s.cfg.threadSafe = true → inFlight (portAt s (otherPort (activePort s))) = false) :
    Effect s .clear (respond { status := .ok } (clearIndices s))
  /-- the race of R142 -/
  | race : Effect s .clear (recordFault .clearRace s)
  /-- the answering micro-step of ITER_CREATE -/
  | create (k : CtxNum) (h : Nat) (hseen : SeenHead s h) :
    Effect s (.iterCreate k) (respond { status := .ok, count := len s.cfg h s.tail }
      (setIter s k { cursor := s.tail, remaining := len s.cfg h s.tail }))
  /-- ITER_NEXT of a context with something left -/
  | nextIter (k : CtxNum) (v : Nat) (hrem : (iterAt s k).remaining ≠ 0)
    (hslot : slotAt s.slots (iterAt s k).cursor = some v) :
    Effect s (.iterNext k) (respond { status := .ok, data := v }
      (setIter s k { cursor := advance s.cfg (iterAt s k).cursor, remaining := (iterAt s k).remaining - 1 }))

/-- Port `activePort s` is at micro-step `j` of the command `i`, and what the command relies on holds. -/
structure InProgress (s : State) (c : Command) (j : Nat) (l : Locals) (i : Instr) : Prop where
  threadSafe : s.cfg.threadSafe = true
  busy : (portAt s (activePort s)).phase = .busy c j l
  decoded : decodeAt s.cfg (activePort s) c = some i
  data : c.data < 2 ^ s.cfg.dataWidth
  relies : j = 1 ∨ Relies s (activePort s) j l i

section Progress
variable {s : State} {c : Command} {j : Nat} {l : Locals} {i : Instr}

/-- A busy port of a state with the invariant, with a command it runs. -/
theorem InProgress.of_phaseOk (hphase : PhaseOk s (activePort s)) (hm : AtMicro s c j l)
    (hi : decodeAt s.cfg (activePort s) c = some i) : InProgress s c j l i := by
  obtain ⟨hts, hbusy⟩ := hm
  obtain ⟨-, hdata, hj⟩ := (phaseOk_busy_iff (activePort_ne_main hts) hbusy).1 hphase
  refine ⟨hts, hbusy, hi, hdata, hj.imp_right fun ⟨i', hi', hr⟩ => ?_⟩
  cases hi.symm.trans hi'
  exact hr

/-- The port permits the command it is at (R86). -/
theorem InProgress.permitted (h : InProgress s c j l i) : permitted (activePort s) i = true :=
  ((admitted_iff ..).1 (decodeAt_eq_some_iff.1 h.decoded).2).1

/-- Before s4 nothing but CLEAR publishes. -/
theorem InProgress.not_publishes (h : InProgress s c j l i) (hi : i ≠ .clear) (hj : j ≠ 4) : ¬Publishes s i := by
  rintro (rfl | ⟨-, c', l', -, hbusy⟩)
  · exact hi rfl
  · rw [h.busy] at hbusy
    cases hbusy
    exact hj rfl

/-- Going on keeps the phase in order if what the next micro-step relies on holds. -/
theorem InProgress.phaseOk_continueWith (h : InProgress s c j l i) {u : State} {l' : Locals} (hcfg : u.cfg = s.cfg)
    (hact : activePort u = activePort s) (hport : portAt u (activePort s) = portAt s (activePort s))
    (hr : Relies u (activePort s) (j + 1) l' i) : PhaseOk (continueWith l' u) (activePort s) := by
  have hbusy : (portAt u (activePort u)).phase = .busy c j l := by rw [hact, hport, h.busy]
  have hnext : (portAt (continueWith l' u) (activePort s)).phase = .busy c (j + 1) l' := by
    simp [continueWith_busy u l' hbusy, hact]
  rw [phaseOk_busy_iff (activePort_ne_main h.threadSafe) hnext, continueWith_cfg, hcfg]
  exact ⟨h.threadSafe, h.data, .inr ⟨i, h.decoded, (sameBlock_continueWith u l').relies_iff.2 hr⟩⟩

/-- A micro-step that only goes on. -/
theorem InProgress.goOn (h : InProgress s c j l i) (hi : i ≠ .clear) (hj : j ≠ 4) {l' : Locals}
    (hr : Relies s (activePort s) (j + 1) l' i) : Effect s i (continueWith l' s) :=
  .goOn i l' (h.not_publishes hi hj) (h.phaseOk_continueWith rfl rfl rfl hr)

/-- PUSH runs on PROD (R86). -/
theorem InProgress.activePort_of_push {v : Nat} (h : InProgress s c j l (.push v)) : activePort s = .prod := by
  have hm := activePort_ne_main h.threadSafe
  have hp := h.permitted
  cases ha : activePort s <;> simp_all [Sys2Proof.permitted]

/-- When THREAD_SAFE = 1 a port that is not PROD is CONS. -/
theorem activePort_eq_cons (hts : s.cfg.threadSafe = true) (hp : activePort s ≠ .prod) : activePort s = .cons := by
  have hm := activePort_ne_main hts
  cases ha : activePort s <;> simp_all

/-- POP and PEEK run on CONS (R86). -/
theorem InProgress.activePort_of_consumer (h : InProgress s c j l i) (hi : i = .pop ∨ i = .peek) :
    activePort s = .cons := by
  refine activePort_eq_cons h.threadSafe fun hp => ?_
  have hperm := h.permitted
  obtain rfl | rfl := hi <;> simp [hp, Sys2Proof.permitted] at hperm

end Progress

/-- When THREAD_SAFE = 0 there is no s4: nothing but CLEAR publishes. -/
theorem not_publishes_of_whole {s : State} {i : Instr} (hts : s.cfg.threadSafe = false) (hi : i ≠ .clear) :
    ¬Publishes s i := by
  rintro (rfl | ⟨-, c, l, hm, -⟩)
  · exact hi rfl
  · simp [hts] at hm

/-- A response without data or count fits. -/
theorem responseFits_of_zero (cfg : Config) {r : Response} (hd : r.data = 0) (hc : r.count = 0) :
    ResponseFits cfg r := by
  rw [ResponseFits, hd, hc]
  exact ⟨Nat.two_pow_pos _, Nat.zero_le _⟩

/-- A response with a length fits (R104). -/
theorem responseFits_len {s : State} {h : Nat} (hseen : SeenHead s h) :
    ResponseFits s.cfg { status := .ok, count := len s.cfg h s.tail } :=
  ⟨Nat.two_pow_pos _, Nat.le_sub_one_of_lt (len_lt hseen.1 _)⟩

/-- The commands that load both indices before they answer: the queries and ITER_CREATE. -/
def LoadsBoth (i : Instr) : Prop := i = .isEmpty ∨ i = .isFull ∨ i = .len ∨ ∃ k, i = .iterCreate k

theorem LoadsBoth.ne_clear {i : Instr} (hi : LoadsBoth i) : i ≠ .clear := by
  obtain rfl | rfl | rfl | ⟨k, rfl⟩ := hi <;> nofun

/-- After its first micro-step such a command relies on its copy of `head`, fresh or not ahead. -/
theorem LoadsBoth.relies_iff {s : State} {p : PortId} {j : Nat} {l : Locals} {i : Instr} (hi : LoadsBoth i)
    (hp : permitted p i = true) (hm : p ≠ .main) :
    Relies s p j l i ↔ j = 2 ∧ if p = .prod then l.h = some s.head else ∃ h, l.h = some h ∧ SeenHead s h := by
  obtain rfl | rfl | rfl | ⟨k, rfl⟩ := hi <;> cases p <;>
    simp_all [Relies, ProdRelies, ConsRelies, permitted]

/-- CLEAR answers or records the race, in every state. -/
theorem clear_effect (s : State) : ∃ t, exec .clear s = .next t ∧ Effect s .clear t := by
  cases h : s.cfg.threadSafe && inFlight (portAt s (otherPort (activePort s))) with
  | true => exact ⟨_, exec_clear_race h, .race⟩
  | false => exact ⟨_, exec_clear h, .clear fun hts => by simpa [hts] using h⟩

section Commands
variable {s : State} (hs : BufferOk s)
include hs

/-- A response with data from a slot fits. -/
theorem responseFits_data {a v : Nat} (h : slotAt s.slots a = some v) :
    ResponseFits s.cfg { status := .ok, data := v } :=
  ⟨hs.slot_lt h, Nat.zero_le _⟩

theorem pushWhole_effect (v : Nat) (hts : s.cfg.threadSafe = false) :
    ∃ t, pushWhole v s = .next t ∧ Effect s (.push v) t := by
  by_cases hfull : advance s.cfg s.head = s.tail
  · cases hov : s.cfg.overwriteOnFull with
    | false =>
      exact ⟨_, pushWhole_full hfull hov,
        .answer _ _ (not_publishes_of_whole hts nofun) (responseFits_of_zero _ rfl rfl)⟩
    | true => exact ⟨_, pushWhole_overwrite hs.indices.1 hfull hov, .overwrite v hts hfull⟩
  · exact ⟨_, pushWhole_room hs.indices.1 hfull, .pushWhole v hts hfull⟩

/-- PUSH's micro-steps: what each relies on is what the one before it left. -/
theorem pushMicro_effect {v : Nat} {c : Command} {j : Nat} {l : Locals} (h : InProgress s c j l (.push v)) :
    ∃ t, pushMicro v s = .next t ∧ Effect s (.push v) t := by
  have hp := h.activePort_of_push
  have hfits : fitWidth s.cfg v = v :=
    fitWidth_of_lt (data_of_decode_push (decodeAt_eq_some_iff.1 h.decoded).1 ▸ h.data)
  obtain rfl | hrel := h.relies
  · exact ⟨_, pushMicro_s1 h.busy, h.goOn nofun nofun (by simp [hp, Relies, ProdRelies])⟩
  simp only [hp, Relies, ProdRelies] at hrel
  obtain ⟨hh, hn, rfl | ⟨hfree, rfl | ⟨rfl, hslot⟩⟩⟩ := hrel
  · by_cases hfull : advance s.cfg s.head = s.tail
    · exact ⟨_, pushMicro_s2_full h.busy hn hfull,
        .answer _ _ (h.not_publishes nofun nofun) (responseFits_of_zero _ rfl rfl)⟩
    · exact ⟨_, pushMicro_s2_room h.busy hn hfull, h.goOn nofun nofun (by simp [hp, Relies, ProdRelies, hh, hn, hfull])⟩
  · refine ⟨_, pushMicro_s3 h.busy hh hs.indices.1, .write v l hp (h.not_publishes nofun nofun) ?_⟩
    exact h.phaseOk_continueWith rfl rfl (by simp) (by simp [hp, Relies, ProdRelies, hh, hn, hfree, hfits])
  · exact ⟨_, pushMicro_s4 h.busy hn, .publish v hp (.inr ⟨.inr ⟨v, rfl⟩, c, l, h.threadSafe, h.busy⟩) hfree hslot⟩

theorem popWhole_effect (hts : s.cfg.threadSafe = false) : ∃ t, popWhole s = .next t ∧ Effect s .pop t := by
  by_cases he : s.head = s.tail
  · exact ⟨_, popWhole_empty he, .answer _ _ (not_publishes_of_whole hts nofun) (responseFits_of_zero _ rfl rfl)⟩
  · obtain ⟨v, hv⟩ := hs.exists_oldest he
    exact ⟨_, popWhole_value hs.indices.2 he hv,
      .take v (by simp [activePort_of_whole hts]) (fun h => by simp [hts] at h) he hv⟩

/-- A copy of `head` that is not ahead of it shows an element only if there is one (R69, R70). -/
theorem SeenHead.head_ne_tail {h : Nat} (hseen : SeenHead s h) (hne : s.tail ≠ h) : s.head ≠ s.tail := by
  intro he
  obtain ⟨-, hle⟩ := hseen
  rw [he, len_self, Nat.le_zero, len_eq_zero_iff hs.indices.2] at hle
  exact hne hle.symm

/-- s1 and s2, which POP and PEEK share: a copy of `head`, then `tail` if the copy shows an element. -/
theorem loadIndices_effect {c : Command} {j : Nat} {l : Locals} {i : Instr} (hi : i = .pop ∨ i = .peek)
    (h : InProgress s c j l i) (hj : j = 1 ∨ j = 2 ∧ ∃ h, l.h = some h ∧ SeenHead s h) :
    ∃ t, popMicro s = .next t ∧ Effect s i t := by
  have hp := h.activePort_of_consumer hi
  have hne : i ≠ .clear := by obtain rfl | rfl := hi <;> nofun
  obtain rfl | ⟨rfl, h', hl, hseen⟩ := hj
  · refine ⟨_, popMicro_s1 h.busy, h.goOn hne nofun ?_⟩
    obtain rfl | rfl := hi <;> simp [hp, Relies, ConsRelies, seenHead_head hs.indices]
  · by_cases he : s.tail = h'
    · exact ⟨_, popMicro_s2_empty h.busy hl he,
        .answer _ _ (h.not_publishes hne nofun) (responseFits_of_zero _ rfl rfl)⟩
    · refine ⟨_, popMicro_s2_some h.busy hl he, h.goOn hne nofun ?_⟩
      obtain rfl | rfl := hi <;> simp [hp, Relies, ConsRelies, hseen.head_ne_tail hs he]

theorem popMicro_effect {c : Command} {j : Nat} {l : Locals} (h : InProgress s c j l .pop) :
    ∃ t, popMicro s = .next t ∧ Effect s .pop t := by
  have hp := h.activePort_of_consumer (.inl rfl)
  obtain hj | hrel := h.relies
  · exact loadIndices_effect hs (.inl rfl) h (.inl hj)
  simp only [hp, Relies, ConsRelies] at hrel
  obtain hj | ⟨ht, hne, rfl | ⟨rfl, v, hlv, hslot⟩⟩ := hrel
  · exact loadIndices_effect hs (.inl rfl) h (.inr hj)
  · obtain ⟨v, hv⟩ := hs.exists_oldest hne
    exact ⟨_, popMicro_s3 h.busy ht hs.indices.2 hv, h.goOn nofun nofun (by simp [hp, Relies, ConsRelies, ht, hne, hv])⟩
  · exact ⟨_, popMicro_s4 h.busy ht hlv,
      .take v (by simp [hp]) (fun _ => .inr ⟨.inl rfl, c, l, h.threadSafe, h.busy⟩) hne hslot⟩

theorem peekWhole_effect (hts : s.cfg.threadSafe = false) : ∃ t, peekWhole s = .next t ∧ Effect s .peek t := by
  have hq := not_publishes_of_whole (i := .peek) hts nofun
  by_cases he : s.head = s.tail
  · exact ⟨_, peekWhole_empty he, .answer _ _ hq (responseFits_of_zero _ rfl rfl)⟩
  · obtain ⟨v, hv⟩ := hs.exists_oldest he
    exact ⟨_, peekWhole_value hs.indices.2 he hv, .answer _ _ hq (responseFits_data hs hv)⟩

theorem peekMicro_effect {c : Command} {j : Nat} {l : Locals} (h : InProgress s c j l .peek) :
    ∃ t, peekMicro s = .next t ∧ Effect s .peek t := by
  have hp := h.activePort_of_consumer (.inr rfl)
  obtain hj | hrel := h.relies
  · rw [peekMicro_eq_popMicro h.busy (.inl hj)]
    exact loadIndices_effect hs (.inr rfl) h (.inl hj)
  simp only [hp, Relies, ConsRelies] at hrel
  obtain hj | ⟨ht, hne, rfl⟩ := hrel
  · rw [peekMicro_eq_popMicro h.busy (.inr hj.1)]
    exact loadIndices_effect hs (.inr rfl) h (.inr hj)
  · obtain ⟨v, hv⟩ := hs.exists_oldest hne
    exact ⟨_, peekMicro_s3 h.busy ht hs.indices.2 hv,
      .answer _ _ (h.not_publishes nofun nofun) (responseFits_data hs hv)⟩

/-- The queries and ITER_CREATE: an answer from a copy of `head` that is not ahead of it. -/
theorem loadBoth_effect {i : Instr} (hi : LoadsBoth i) {fin : Nat → Nat → State → State}
    (hfin : ∀ h, SeenHead s h → Effect s i (fin h s.tail s))
    (hrun : s.cfg.threadSafe = true → ∃ c j l, InProgress s c j l i) :
    ∃ t, loadBoth s fin = .next t ∧ Effect s i t := by
  have hfresh := seenHead_head hs.indices
  cases hts : s.cfg.threadSafe with
  | false => exact ⟨_, loadBoth_whole hts, hfin _ hfresh⟩
  | true =>
    obtain ⟨c, j, l, h⟩ := hrun hts
    have hiff := fun j l => hi.relies_iff (s := s) (j := j) (l := l) h.permitted (activePort_ne_main hts)
    obtain rfl | hrel := h.relies
    · refine ⟨_, loadBoth_s1 hts h.busy, h.goOn hi.ne_clear nofun ((hiff _ _).2 ⟨rfl, ?_⟩)⟩
      split
      · rfl
      · exact ⟨_, rfl, hfresh⟩
    · obtain ⟨rfl, hcopy⟩ := (hiff _ _).1 hrel
      split at hcopy
      · exact ⟨_, loadBoth_s2 hts h.busy hcopy, hfin _ hfresh⟩
      · obtain ⟨h', hl, hseen⟩ := hcopy
        exact ⟨_, loadBoth_s2 hts h.busy hl, hfin _ hseen⟩

/-- ITER_NEXT reads a written slot, since its context can still read it (R37). -/
theorem iterNext_effect {k : CtxNum} (ha : admitted s.cfg (activePort s) (.iterNext k) = true) :
    ∃ t, exec (.iterNext k) s = .next t ∧ Effect s (.iterNext k) t := by
  by_cases hrem : (iterAt s k).remaining = 0
  · exact ⟨_, exec_iterNext_done ha hrem, .answer _ _ (by simp [Publishes]) (responseFits_of_zero _ rfl rfl)⟩
  · have hmem := iterAt_mem hrem
    obtain ⟨hcur, -⟩ := hs.contexts.2 _ hmem
    have hsome := hs.snapshots _ hmem 0 (Nat.pos_of_ne_zero hrem)
    rw [Nat.add_zero, Nat.mod_eq_of_lt hcur] at hsome
    obtain ⟨v, hv⟩ := Option.isSome_iff_exists.1 hsome
    exact ⟨_, exec_iterNext_value ha hrem hcur hv, .nextIter k v hrem hv⟩

/-- Every command answers a next state: when THREAD_SAFE = 1, if the port that moves is at one of its micro-steps. -/
theorem exec_effect_of_admitted {i : Instr} (ha : admitted s.cfg (activePort s) i = true)
    (hrun : s.cfg.threadSafe = true → ∃ c j l, InProgress s c j l i) : ∃ t, exec i s = .next t ∧ Effect s i t := by
  cases i with
  | nop => exact ⟨_, exec_nop, .answer _ _ (by simp [Publishes]) (responseFits_of_zero _ rfl rfl)⟩
  | push v =>
    rw [exec_push ha]
    split
    · next hts =>
      obtain ⟨c, j, l, h⟩ := hrun hts
      exact pushMicro_effect hs h
    · next hts => exact pushWhole_effect hs v (by simpa using hts)
  | pop =>
    rw [exec_pop ha]
    split
    · next hts =>
      obtain ⟨c, j, l, h⟩ := hrun hts
      exact popMicro_effect hs h
    · next hts => exact popWhole_effect hs (by simpa using hts)
  | peek =>
    rw [exec_peek ha]
    split
    · next hts =>
      obtain ⟨c, j, l, h⟩ := hrun hts
      exact peekMicro_effect hs h
    · next hts => exact peekWhole_effect hs (by simpa using hts)
  | clear => exact clear_effect s
  | isEmpty =>
    rw [exec_isEmpty ha]
    exact loadBoth_effect hs (.inl rfl)
      (fun h _ => .answer _ _ (by simp [Publishes]) (responseFits_of_zero _ rfl rfl)) hrun
  | isFull =>
    rw [exec_isFull ha]
    exact loadBoth_effect hs (.inr (.inl rfl))
      (fun h _ => .answer _ _ (by simp [Publishes]) (responseFits_of_zero _ rfl rfl)) hrun
  | len =>
    rw [exec_len ha]
    exact loadBoth_effect hs (.inr (.inr (.inl rfl)))
      (fun h hseen => .answer _ _ (by simp [Publishes]) (responseFits_len hseen)) hrun
  | iterCreate k =>
    rw [exec_iterCreate ha]
    exact loadBoth_effect hs (.inr (.inr (.inr ⟨k, rfl⟩))) (fun h hseen => .create k h hseen) hrun
  | iterNext k => exact iterNext_effect hs ha

end Commands

/-- The port that moves can go on with the command `i`: it holds it, or the command is a whole step. -/
def Running (s : State) (i : Instr) : Prop :=
  s.cfg.threadSafe = true → ∃ c j l, (portAt s (activePort s)).phase = .busy c j l ∧ decode c = .ok i

/-- From a state with the invariant every command that is running answers a next state, by one of the effects. -/
theorem exec_effect {s : State} {i : Instr} (hinv : Inv s) (hrun : Running s i) :
    ∃ t, exec i s = .next t ∧ Effect s i t := by
  obtain ⟨hs, -, hphase⟩ := (inv_iff s).1 hinv
  cases ha : admitted s.cfg (activePort s) i with
  | false => exact ⟨_, exec_of_not_admitted ha, .illegal i ha⟩
  | true =>
    refine exec_effect_of_admitted hs ha fun hts => ?_
    obtain ⟨c, j, l, hbusy, hi⟩ := hrun hts
    exact ⟨c, j, l, .of_phaseOk (hphase _) ⟨hts, hbusy⟩ (decodeAt_eq_some_iff.2 ⟨hi, ha⟩)⟩

/-- The next state a running command answers is one of the effects. -/
theorem effect_of_exec {s t : State} {i : Instr} (hinv : Inv s) (hrun : Running s i) (h : exec i s = .next t) :
    Effect s i t := by
  obtain ⟨t', ht', he⟩ := exec_effect hinv hrun
  cases h.symm.trans ht'
  exact he

end Sys2Proof.Machine
end

section
/-! PROOFS. The invariant is kept by every effect and every step, no step is stuck, and the invariant holds after
reset. -/

namespace Sys2Proof.Machine

/-! ### What the other port's command relies on -/

section OtherPort
variable {s : State} {p : PortId} (hidx : IndicesInRange s)

/-- PUSH's slot write touches no slot CONS relies on. -/
theorem PhaseOk.writeHead (v : Nat) (hp : p ≠ .prod) (h : PhaseOk s p) : PhaseOk (writeHead v s) p := by
  refine h.mono rfl (by simp) fun j l i hr => ?_
  cases p with
  | main => exact hr
  | prod => exact absurd rfl hp
  | cons =>
    cases i <;> try exact hr
    obtain hr | ⟨ht, hne, rfl | ⟨rfl, v', hv, hslot⟩⟩ := hr
    · exact .inl hr
    · exact .inr ⟨ht, hne, .inl rfl⟩
    · exact .inr ⟨ht, hne, .inr ⟨rfl, v', hv, (slotAt_setSlot_other _ _ hne.symm).trans hslot⟩⟩

include hidx

/-- A copy of `head` is not ahead of a `head` that moves on. -/
theorem SeenHead.advanceHead {h : Nat} (hfree : advance s.cfg s.head ≠ s.tail) (hseen : SeenHead s h) :
    SeenHead (advanceHead s) h := by
  obtain ⟨hlt, hle⟩ := hseen
  have hlen := len_advance_head hidx.1 hidx.2 hfree
  exact ⟨hlt, by simp only [advanceHead_cfg, advanceHead_head, advanceHead_tail]; omega⟩

/-- Publishing `head` keeps what CONS relies on. -/
theorem PhaseOk.advanceHead (hfree : advance s.cfg s.head ≠ s.tail) (hp : p ≠ .prod) (h : PhaseOk s p) :
    PhaseOk (advanceHead s) p := by
  refine h.mono rfl (by simp) fun j l i hr => ?_
  have hstale : (j = 2 ∧ ∃ h, l.h = some h ∧ SeenHead s h) →
      j = 2 ∧ ∃ h, l.h = some h ∧ SeenHead (Machine.advanceHead s) h :=
    fun ⟨hj, h, hl, hseen⟩ => ⟨hj, h, hl, hseen.advanceHead hidx hfree⟩
  cases p with
  | main => exact hr
  | prod => exact absurd rfl hp
  | cons =>
    cases i with
    | pop => exact hr.imp hstale fun ⟨ht, _, hj⟩ => ⟨ht, hfree, hj⟩
    | peek => exact hr.imp hstale fun ⟨ht, _, hj⟩ => ⟨ht, hfree, hj⟩
    | isEmpty | isFull | len | iterCreate => exact hstale hr
    | nop | clear | push | iterNext => exact hr

/-- Publishing `tail` keeps what PROD relies on: the room it saw stays. -/
theorem PhaseOk.advanceTail (hne : s.head ≠ s.tail) (hp : p ≠ .cons) (h : PhaseOk s p) :
    PhaseOk (advanceTail s) p := by
  refine h.mono rfl (by simp) fun j l i hr => ?_
  have hroom : advance s.cfg s.head ≠ (Machine.advanceTail s).tail := fun he =>
    hne ((advance_inj hidx.1 hidx.2).1 he)
  cases p with
  | main => exact hr
  | cons => exact absurd rfl hp
  | prod =>
    cases i <;> try exact hr
    obtain ⟨hh, hn, hj⟩ := hr
    exact ⟨hh, hn, hj.imp_right fun ⟨_, hj⟩ => ⟨hroom, hj⟩⟩

end OtherPort

/-- When THREAD_SAFE = 0 every phase is untouched by a command. -/
theorem PhaseOk.of_whole {s t : State} {p : PortId} (h : PhaseOk s p) (hts : s.cfg.threadSafe = false)
    (hport : (portAt t p).phase = (portAt s p).phase) : PhaseOk t p :=
  phaseOk_of_idle (hport.trans (h.idle hts))

/-! ### Answering and going on -/

section Ports
variable {u : State} (hb : BufferOk u) (hfits : ∀ p, PortFits u.cfg (portAt u p))
  (hphase : ∀ p, p ≠ activePort u → PhaseOk u p)
include hb hfits hphase

/-- An answer completes the invariant: the port that moves is idle after it. -/
theorem inv_respond {r : Response} (hr : ResponseFits u.cfg r) : Inv (respond r u) := by
  refine (inv_iff _).2 ⟨hb.congr (sameBlock_respond u r), fun p => ?_, fun p => ?_⟩
  · rw [respond_cfg]
    by_cases hp : p = activePort u
    · rw [hp, portAt_respond_active]
      refine ⟨hr, fun r' hr' => ?_⟩
      obtain hr' | hr' := List.mem_append.1 hr'
      · exact (hfits _).2 r' hr'
      · rwa [List.mem_singleton.1 hr']
    · rw [portAt_respond_other u r hp]
      exact hfits p
  · by_cases hp : p = activePort u
    · exact phaseOk_of_idle (by rw [hp, portAt_respond_active]; rfl)
    · exact (hphase p hp).congr (sameBlock_respond u r) (by rw [portAt_respond_other u r hp])

/-- The next micro-step keeps the invariant if what it relies on holds. -/
theorem inv_continueWith {l : Locals} (hl : PhaseOk (continueWith l u) (activePort u)) : Inv (continueWith l u) := by
  refine (inv_iff _).2 ⟨hb.congr (sameBlock_continueWith u l), fun p => ?_, fun p => ?_⟩
  · rw [continueWith_cfg]
    by_cases hp : p = activePort u
    · subst hp
      cases hph : (portAt u (activePort u)).phase with
      | idle =>
        rw [continueWith_idle u l hph]
        exact hfits (activePort u)
      | busy c j l₀ =>
        rw [continueWith_busy u l hph, portAt_setPort_same]
        exact hfits (activePort u)
    · rw [portAt_continueWith_other u l hp]
      exact hfits p
  · by_cases hp : p = activePort u
    · exact hp ▸ hl
    · exact (hphase p hp).congr (sameBlock_continueWith u l) (by rw [portAt_continueWith_other u l hp])

end Ports

/-- An overwriting PUSH leaves the buffer in order, with one slot as with more. -/
theorem BufferOk.overwrite {s : State} (hs : BufferOk s) (v : Nat) (hfull : advance s.cfg s.head = s.tail) :
    BufferOk (Machine.advanceHead (Machine.writeHead v (Machine.advanceTail s))) := by
  obtain ⟨hh, ht⟩ := hs.indices
  by_cases he : s.head = s.tail
  · have htail : advance s.cfg s.tail = s.tail := by rw [← he, hfull, he]
    exact (hs.writeHead v).congr ⟨rfl, hfull.trans he.symm, htail, rfl, rfl⟩
  · have hfree : advance s.cfg s.head ≠ advance s.cfg s.tail := fun h => he ((advance_inj hh ht).1 h)
    exact ((hs.advanceTail he).writeHead v).advanceHead hfree (by simp)

/-- There are two ports besides MAIN. -/
theorem eq_otherPort {p q : PortId} (hp : p ≠ .main) (hq : q ≠ .main) (hpq : p ≠ q) : p = otherPort q := by
  cases p <;> cases q <;> simp_all [otherPort]

/-- Every effect keeps the invariant. -/
theorem Effect.inv {s t : State} {i : Instr} (he : Effect s i t) (hinv : Inv s) : Inv t := by
  obtain ⟨hs, hfits, hphase⟩ := (inv_iff s).1 hinv
  have hidx := hs.indices
  cases he with
  | illegal => exact inv_respond hs hfits (fun p _ => hphase p) (responseFits_of_zero _ rfl rfl)
  | answer _ r _ hr => exact inv_respond hs hfits (fun p _ => hphase p) hr
  | goOn _ l _ hl => exact inv_continueWith hs hfits (fun p _ => hphase p) hl
  | write v l hp _ hl =>
    exact inv_continueWith (hs.writeHead v) (by simpa using hfits)
      (fun p hne => (hphase p).writeHead v (by simpa [hp] using hne)) hl
  | publish v hp _ hfree hslot =>
    exact inv_respond (hs.advanceHead hfree (by simp [hslot])) (by simpa using hfits)
      (fun p hne => (hphase p).advanceHead hidx hfree (by simpa [hp] using hne)) (responseFits_of_zero _ rfl rfl)
  | pushWhole v hts hfree =>
    exact inv_respond ((hs.writeHead v).advanceHead hfree (by simp)) (by simpa using hfits)
      (fun p _ => (hphase p).of_whole hts (by simp)) (responseFits_of_zero _ rfl rfl)
  | overwrite v hts hfull =>
    exact inv_respond (hs.overwrite v hfull) (by simpa using hfits)
      (fun p _ => (hphase p).of_whole hts (by simp)) (responseFits_of_zero _ rfl rfl)
  | take v hp _ hne hslot =>
    refine inv_respond (hs.advanceTail hne) (by simpa using hfits) (fun p hpa => ?_) (responseFits_data hs hslot)
    cases hts : s.cfg.threadSafe with
    | false => exact (hphase p).of_whole hts (by simp)
    | true => exact (hphase p).advanceTail hidx hne (by simpa [activePort_eq_cons hts hp] using hpa)
  | clear hother =>
    refine inv_respond hs.clearIndices (by simpa using hfits) (fun p hpa => ?_) (responseFits_of_zero _ rfl rfl)
    cases hts : s.cfg.threadSafe with
    | false => exact (hphase p).of_whole hts (by simp)
    | true =>
      by_cases hm : p = .main
      · exact phaseOk_of_idle (by rw [portAt_clearIndices, hm]; exact hphase .main)
      · have hp : p = otherPort (activePort s) := eq_otherPort hm (activePort_ne_main hts) hpa
        exact (hphase p).of_not_inFlight (hp ▸ hother hts) rfl (by simp)
  | race =>
    have hsame := sameBlock_recordFault s .clearRace
    exact (inv_iff _).2 ⟨hs.congr hsame, by simpa using hfits, fun p => (hphase p).congr hsame (by simp)⟩
  | create k h hseen =>
    exact inv_respond (hs.setIter k hidx.2 (responseFits_len hseen).2 fun j hj => hs.logical j (hj.trans_le hseen.2))
      (by simpa using hfits) (fun p _ => hphase p) (responseFits_len hseen)
  | nextIter k v hrem hslot =>
    have hmem := iterAt_mem hrem
    have hle := (hs.contexts.2 _ hmem).2
    refine inv_respond (hs.setIter k (advance_lt hs.capacity_pos _) (by dsimp only; omega) fun j hj => ?_)
      (by simpa using hfits) (fun p _ => hphase p) (responseFits_data hs hslot)
    dsimp only at hj ⊢
    rw [advance_add_mod]
    exact hs.snapshots _ hmem _ (by omega)

/-! ### Steps -/

/-- The edge keeps the invariant: it ends response pulses and takes an input. -/
theorem inv_edge {s : State} (hinv : Inv s) : Inv (edge s) := by
  obtain ⟨hs, hfits, hphase⟩ := (inv_iff s).1 hinv
  refine (inv_iff _).2 ⟨hs.congr (sameBlock_edge s), fun p => ?_, fun p => (hphase p).congr (sameBlock_edge s) ?_⟩
  · cases p
    exacts [hfits .main, hfits .prod, hfits .cons]
  · cases p <;> rfl

/-- An acceptance keeps the invariant: nothing has been relied on yet. -/
theorem inv_acceptOn {s : State} {p : PortId} (c : Command) (hinv : Inv s) (hts : s.cfg.threadSafe = true)
    (hm : p ≠ .main) : Inv (acceptOn p c s) := by
  obtain ⟨hs, hfits, hphase⟩ := (inv_iff s).1 hinv
  unfold acceptOn
  have hsame := sameBlock_setPort s p { portAt s p with phase := .busy (sample s.cfg c) 1 {} }
  refine (inv_iff _).2 ⟨hs.congr hsame, fun q => ?_, fun q => ?_⟩
  · rw [setPort_cfg]
    by_cases hq : q = p
    · rw [hq, portAt_setPort_same]
      exact hfits p
    · rw [portAt_setPort_other _ _ _ _ hq]
      exact hfits q
  · by_cases hq : q = p
    · subst hq
      rw [phaseOk_busy_iff hm (by rw [portAt_setPort_same]), setPort_cfg]
      exact ⟨hts, fitWidth_lt .., .inl rfl⟩
    · exact (hphase q).congr hsame (by rw [portAt_setPort_other _ _ _ _ hq])

/-- What legality says of the capacity (R4). -/
theorem capacity_pos_of_legal {cfg : Config} (h : badConfig cfg = none) : 0 < cfg.capacity := by
  by_contra hC
  simp [badConfig, Nat.eq_zero_of_not_pos hC] at h

/-- The buffer after reset (R35). -/
theorem bufferOk_resetOf {cfg : Config} (h : badConfig cfg = none) : BufferOk (State.resetOf cfg) := by
  have hC := capacity_pos_of_legal h
  refine ⟨⟨hC, hC⟩, ⟨rfl, nofun⟩, ⟨List.length_replicate, fun x hx => ?_⟩, fun k hk => ?_, fun x hx j hj => ?_⟩
  · obtain rfl := List.eq_of_mem_replicate hx
    exact ⟨hC, Nat.zero_le _⟩
  · simp [BlockState.resetOf] at hk
  · obtain rfl := List.eq_of_mem_replicate hx
    cases hj

/-- A reset gives the buffer its reset values. -/
theorem sameBlock_resetBlock (s : State) : SameBlock (State.resetOf s.cfg) (resetBlock s) := ⟨rfl, rfl, rfl, rfl, rfl⟩

@[simp] theorem portAt_resetBlock (s : State) (p : PortId) : portAt (resetBlock s) p = resetPort (portAt s p) := by
  cases p <;> rfl

@[simp] theorem portAt_resetOf (cfg : Config) (p : PortId) : portAt (State.resetOf cfg) p = PortState.reset := by
  cases p <;> rfl

/-- A reset establishes what the invariant says but of the response logs, which it keeps. -/
theorem inv_resetBlock {s : State} (hinv : Inv s) (hlegal : Legal s) : Inv (resetBlock s) := by
  obtain ⟨-, hfits, -⟩ := (inv_iff s).1 hinv
  refine (inv_iff _).2 ⟨(bufferOk_resetOf hlegal).congr (sameBlock_resetBlock s), fun p => ?_, fun p => ?_⟩
  · rw [portAt_resetBlock]
    exact ⟨responseFits_of_zero _ rfl rfl, (hfits p).2⟩
  · exact phaseOk_of_idle (by rw [portAt_resetBlock]; rfl)

/-- The invariant holds in ResetState of every legal configuration. -/
theorem inv_resetOf {cfg : Config} (h : badConfig cfg = none) : Inv (State.resetOf cfg) :=
  (inv_iff _).2 ⟨bufferOk_resetOf h,
    fun p => by rw [portAt_resetOf]; exact ⟨responseFits_of_zero _ rfl rfl, nofun⟩,
    fun p => phaseOk_of_idle (by rw [portAt_resetOf]; rfl)⟩

section Action
variable {x : Input} {s : State}

/-- Reset is selected exactly by `rst = 1` (R208). -/
theorem selectAction_eq_reset_iff : selectAction x s = .reset ↔ x.rst = true := by
  unfold selectAction
  split
  · next hr => simp [hr]
  · next hr =>
    refine iff_of_false ?_ hr
    split <;> split <;> (try split) <;> nofun

/-- Only a block with THREAD_SAFE = 1 accepts without running (R61). -/
theorem threadSafe_of_accept {c : Command} (h : selectAction x s = .accept c) : s.cfg.threadSafe = true := by
  by_contra hts
  simp only [selectAction, hts, if_false] at h
  split at h
  · cases h
  · split at h <;> cases h

/-- A command that is run is whole, or is the one the port that moves holds. -/
theorem running_of_run {c : Command} {i : Instr} (h : selectAction x s = .run c) (hi : decode c = .ok i) :
    Running s i := by
  intro hts
  simp only [selectAction, hts, if_true] at h
  split at h
  · cases h
  · split at h
    · next c' j l hbusy =>
      cases h
      exact ⟨c, j, l, hbusy, hi⟩
    · split at h <;> cases h

end Action

/-- Settles O39: every action of a step keeps the invariant, a command because each of its effects does. -/
theorem everyStepKeepsInv : Obligations.EveryStepKeepsInv := by
  intro s t hinv h
  have hedge := inv_edge hinv
  obtain ⟨hlegal, ⟨-, rfl⟩ | ⟨-, ⟨-, rfl⟩ | ⟨c, ha, rfl⟩ | ⟨c, e, -, -, rfl⟩ | ⟨c, i, ha, hi, h⟩⟩⟩ := step_next h
  · exact inv_resetBlock hedge hlegal
  · exact hedge
  · have hts := threadSafe_of_accept ha
    exact inv_acceptOn c hedge hts (activePort_ne_main hts)
  · obtain ⟨hs, hfits, hphase⟩ := (inv_iff _).1 hedge
    exact inv_respond hs hfits (fun p _ => hphase p) (responseFits_of_zero _ rfl rfl)
  · exact (effect_of_exec hedge (running_of_run ha hi) h).inv hedge

/-- Settles O40: the reset values satisfy each part of the invariant. -/
theorem resetStateHasInv : Obligations.ResetStateHasInv :=
  ⟨fun _ => inv_resetOf, inv_resetOf (by decide)⟩

/-- No effect reads a slot that holds the unwritten marker. -/
theorem Effect.modelFault_ne {s t : State} {i : Instr} (he : Effect s i t) (hsafe : Safe s) :
    t.modelFault ≠ some .unwrittenSlotRead := by
  cases he with
  | race => simp [recordFault, show s.modelFault = none from hsafe]
  | illegal => simp [respondIllegal, show s.modelFault = none from hsafe]
  | answer | goOn | write | publish | pushWhole | overwrite | take | clear | create | nextIter =>
    simp [show s.modelFault = none from hsafe]

/-- Settles O41: reset, acceptance and idling always answer a next state, and a command does by `exec_effect`. -/
theorem noStepIsStuck : Obligations.NoStepIsStuck := by
  intro s hinv hlegal hsafe
  have hedge := inv_edge hinv
  have hf : (edge s).modelFault ≠ some .unwrittenSlotRead := by simp [edge, show s.modelFault = none from hsafe]
  rw [step_eq_takeStep]
  cases ha : selectAction (nextInput s) (edge s) with
  | reset => exact ⟨resetBlock (edge s), by simp [takeStep, hlegal, ha], hf⟩
  | idle => exact ⟨edge s, by simp [takeStep, hlegal, ha, hsafe], hf⟩
  | accept c =>
    exact ⟨acceptOn (activePort (edge s)) c (edge s), by simp [takeStep, hlegal, ha, hsafe],
      by simpa [acceptOn] using hf⟩
  | run c =>
    have hstep : takeStep s = runCommand c (edge s) := by simp [takeStep, hlegal, ha, hsafe]
    cases hi : decode c with
    | error e => exact ⟨respondIllegal (edge s), by simp [hstep, runCommand, hi], by simpa [respondIllegal] using hf⟩
    | ok i =>
      obtain ⟨t, ht, he⟩ := exec_effect hedge (running_of_run ha hi)
      exact ⟨t, by simp [hstep, runCommand, hi, ht], he.modelFault_ne hsafe⟩

end Sys2Proof.Machine
end

section
/-! PROOFS. The logical contents: first in, first out (R25). -/

namespace Sys2Proof.Machine

/-! ### Whole commands -/

/-- The full output is the comparator of R107. -/
theorem fullOutput_eq_true_iff (s : State) : fullOutput s = true ↔ advance s.cfg s.head = s.tail := by
  simp [fullOutput, isFull]

section Effects
variable {s t : State} {i : Instr} (hidx : IndicesInRange s) (he : Effect s i t)
include hidx he

/-- No effect changes the logical contents but those that publish an index, and a whole PUSH or POP. -/
theorem Effect.contents_eq (hts : s.cfg.threadSafe = true ∨ ¬((∃ v, i = .push v) ∨ i = .pop)) (hq : ¬Publishes s i) :
    contents t = contents s := by
  cases he with
  | illegal => exact contents_respondIllegal s
  | answer _ r => exact contents_respond s r
  | goOn _ l => exact contents_continueWith s l
  | write v l => exact (contents_continueWith ..).trans (contents_writeHead hidx v)
  | publish v _ hpub => exact absurd hpub hq
  | pushWhole v hf => simp [hf] at hts
  | overwrite v hf => simp [hf] at hts
  | take v _ hpub => exact absurd (hpub (by simpa using hts)) hq
  | clear => exact absurd (.inl rfl) hq
  | race => exact (sameBlock_recordFault s .clearRace).contents_eq
  | create k h => exact contents_respond ..
  | nextIter k v => exact contents_respond ..

end Effects

/-- CLEAR that meets no race empties the buffer. -/
theorem contents_of_clear {s t : State}
    (hrace : (s.cfg.threadSafe && inFlight (portAt s (otherPort (activePort s)))) = false)
    (h : exec .clear s = .next t) : contents t = [] := by
  rw [exec_clear hrace] at h
  cases h
  rw [contents_respond, contents_clearIndices]

section Whole
variable {s : State} (hts : s.cfg.threadSafe = false)
include hts

theorem exec_push_of_whole (v : Nat) : exec (.push v) s = pushWhole v s := by
  rw [exec_push (by rw [activePort_of_whole hts]; rfl), hts]
  rfl

theorem exec_pop_of_whole : exec .pop s = popWhole s := by
  rw [exec_pop (by rw [activePort_of_whole hts]; rfl), hts]
  rfl

theorem exec_peek_of_whole : exec .peek s = peekWhole s := by
  rw [exec_peek (by rw [activePort_of_whole hts]; rfl), hts]
  rfl

/-- When THREAD_SAFE = 0 an answer stands in MAIN's registers. -/
theorem main_rsp_respond (r : Response) : (respond r s).main.rsp = r := by
  have h := portAt_respond_active s r
  rw [activePort_of_whole hts] at h
  exact congrArg PortState.rsp h

/-- PUSH with room appends its operand. -/
theorem push_appends (hs : BufferOk s) {v : Nat} {t : State} (hv : v < 2 ^ s.cfg.dataWidth)
    (hfree : advance s.cfg s.head ≠ s.tail) (h : exec (.push v) s = .next t) :
    contents t = contents s ++ [some v] ∧ t.main.rsp = { status := .ok } := by
  rw [exec_push_of_whole hts, pushWhole_room hs.indices.1 hfree] at h
  cases h
  refine ⟨?_, main_rsp_respond (s := advanceHead (writeHead v s)) hts _⟩
  rw [contents_respond, contents_advanceHead (s := writeHead v s) hs.indices hfree, contents_writeHead hs.indices]
  simp [fitWidth_of_lt hv]

/-- PUSH on a full buffer that does not overwrite changes nothing. -/
theorem push_full_keeps {v : Nat} {t : State} (hfull : advance s.cfg s.head = s.tail)
    (hov : s.cfg.overwriteOnFull = false) (h : exec (.push v) s = .next t) :
    contents t = contents s ∧ t.main.rsp = { status := .bufferFull } := by
  rw [exec_push_of_whole hts, pushWhole_full hfull hov] at h
  cases h
  exact ⟨contents_respond .., main_rsp_respond hts _⟩

/-- PUSH on a full buffer that overwrites drops the oldest element and appends its operand. -/
theorem push_overwrites (hs : BufferOk s) {v : Nat} {t : State} (hv : v < 2 ^ s.cfg.dataWidth)
    (hfull : advance s.cfg s.head = s.tail) (hov : s.cfg.overwriteOnFull = true)
    (h : exec (.push v) s = .next t) :
    t.main.rsp = { status := .ok } ∧
      (2 ≤ s.cfg.capacity → contents t = (contents s).tail ++ [some v]) ∧
      (s.cfg.capacity = 1 → contents t = []) := by
  obtain ⟨hh, ht⟩ := hs.indices
  rw [exec_push_of_whole hts, pushWhole_overwrite hh hfull hov] at h
  cases h
  refine ⟨main_rsp_respond (s := advanceHead (writeHead v (advanceTail s))) hts _, fun hC => ?_, fun hC => ?_⟩
  · have hne : s.head ≠ s.tail := fun he => by
      rw [← he, advance_eq_ite hh] at hfull
      split at hfull <;> omega
    have hfree : advance s.cfg s.head ≠ advance s.cfg s.tail := fun he => hne ((advance_inj hh ht).1 he)
    have hidx := (hs.advanceTail hne).indices
    rw [contents_respond, contents_advanceHead (s := writeHead v (advanceTail s)) hidx hfree, contents_writeHead hidx,
      contents_eq_cons_advanceTail hs.indices hne]
    simp [fitWidth_of_lt hv]
  · rw [contents_respond, contents_eq_nil_of_single_slot (hs.overwrite v hfull).indices hC]

/-- POP takes the oldest element and answers it. -/
theorem pop_takes_oldest (hs : BufferOk s) {t : State} (h : exec .pop s = .next t) :
    (contents s = [] ∧ contents t = [] ∧ t.main.rsp = { status := .bufferEmpty }) ∨
      ∃ v, contents s = some v :: contents t ∧ t.main.rsp = { status := .ok, data := v } := by
  rw [exec_pop_of_whole hts] at h
  by_cases he : s.head = s.tail
  · rw [popWhole_empty he] at h
    cases h
    rw [contents_respond, contents_eq_nil s he]
    exact .inl ⟨rfl, rfl, main_rsp_respond hts _⟩
  · obtain ⟨v, hv⟩ := hs.exists_oldest he
    rw [popWhole_value hs.indices.2 he hv] at h
    cases h
    rw [contents_respond, contents_eq_cons_advanceTail hs.indices he, hv]
    exact .inr ⟨v, rfl, main_rsp_respond (s := advanceTail s) hts _⟩

/-- PEEK answers the oldest element and leaves it. -/
theorem peek_shows_oldest (hs : BufferOk s) {t : State} (h : exec .peek s = .next t) :
    contents t = contents s ∧
      ((contents s = [] ∧ t.main.rsp = { status := .bufferEmpty }) ∨
        ∃ v rest, contents s = some v :: rest ∧ t.main.rsp = { status := .ok, data := v }) := by
  rw [exec_peek_of_whole hts] at h
  by_cases he : s.head = s.tail
  · rw [peekWhole_empty he] at h
    cases h
    exact ⟨contents_respond .., .inl ⟨contents_eq_nil s he, main_rsp_respond hts _⟩⟩
  · obtain ⟨v, hv⟩ := hs.exists_oldest he
    rw [peekWhole_value hs.indices.2 he hv] at h
    cases h
    refine ⟨contents_respond .., .inr ⟨v, contents (advanceTail s), ?_, main_rsp_respond hts _⟩⟩
    rw [contents_eq_cons_advanceTail hs.indices he, hv]

end Whole

/-- Settles O51: each command by its outcome, and the commands that publish nothing by `Effect.contents_eq`. -/
theorem fifoOrderOfWholeCommands : Obligations.FifoOrderOfWholeCommands := by
  intro s t hinv hts _
  obtain ⟨hs, -, -⟩ := (inv_iff s).1 hinv
  have hfull := fullOutput_eq_true_iff s
  refine ⟨fun v hv h => ⟨fun hroom => ?_, fun hf hov => ?_, fun hf hov hC => ?_, fun hf hov hC => ?_⟩,
    pop_takes_oldest hts hs, peek_shows_oldest hts hs, fun h => ?_, fun i h hi => ?_⟩
  · exact push_appends hts hs hv (fun he => by simp [hfull.2 he] at hroom) h
  · exact push_full_keeps hts (hfull.1 hf) hov h
  · obtain ⟨hrsp, htwo, -⟩ := push_overwrites hts hs hv (hfull.1 hf) hov h
    exact ⟨htwo hC, hrsp⟩
  · obtain ⟨hrsp, -, hone⟩ := push_overwrites hts hs hv (hfull.1 hf) hov h
    exact ⟨hone hC, hrsp⟩
  · exact contents_of_clear (by simp [hts]) h
  · have he := effect_of_exec hinv (fun hf => by simp [hts] at hf) h
    refine he.contents_eq hs.indices (.inr ?_) (not_publishes_of_whole hts ?_) <;>
      obtain rfl | rfl | rfl | rfl | ⟨k, rfl⟩ | ⟨k, rfl⟩ := hi <;> simp

/-! ### Micro-steps -/

section Publishing
variable {s t : State} (hidx : IndicesInRange s) (hts : s.cfg.threadSafe = true)
include hidx hts

/-- PUSH's s4 appends the operand. -/
theorem Effect.push_appends {v : Nat} (he : Effect s (.push v) t) (hpub : Publishes s (.push v))
    (ha : admitted s.cfg (activePort s) (.push v) = true) : contents t = contents s ++ [some v] := by
  cases he with
  | publish _ _ _ hfree hslot => rw [contents_respond, contents_advanceHead hidx hfree, hslot]
  | illegal _ hi => simp [ha] at hi
  | answer _ _ hq | goOn _ _ hq | write _ _ _ hq => exact absurd hpub hq
  | pushWhole _ hf | overwrite _ hf => simp [hts] at hf

/-- POP's s4 takes the oldest element and answers it. -/
theorem Effect.pop_takes_oldest (he : Effect s .pop t) (hpub : Publishes s .pop)
    (ha : admitted s.cfg (activePort s) .pop = true) :
    ∃ v, contents s = some v :: contents t ∧ (portAt t .cons).rsp = { status := .ok, data := v } := by
  cases he with
  | take v hp _ hne hslot =>
    refine ⟨v, ?_, ?_⟩
    · rw [contents_respond, contents_eq_cons_advanceTail hidx hne, hslot]
    · have hrsp := portAt_respond_active (advanceTail s) { status := .ok, data := v }
      rw [activePort_advanceTail, activePort_eq_cons hts hp] at hrsp
      exact congrArg PortState.rsp hrsp
  | illegal _ hi => simp [ha] at hi
  | answer _ _ hq | goOn _ _ hq => exact absurd hpub hq

end Publishing

/-- Which command publishes at micro-step `j`. -/
theorem publishes_iff {s : State} {c : Command} {j : Nat} {l : Locals} {i : Instr} (hm : AtMicro s c j l) :
    Publishes s i ↔ i = .clear ∨ (i = .pop ∨ ∃ v, i = .push v) ∧ j = 4 := by
  obtain ⟨hts, hbusy⟩ := hm
  simp [Publishes, AtMicro, hts, hbusy]

/-- Settles O52: the effects of s4 and of CLEAR, and `Effect.contents_eq` for every other micro-step. -/
theorem contentsChangeOnlyWhenPublished : Obligations.ContentsChangeOnlyWhenPublished := by
  intro s t c j l i hinv _ hm hi h hsafe
  obtain ⟨hdec, ha⟩ := decodeAt_eq_some_iff.1 hi
  have hidx := ((inv_iff s).1 hinv).1.indices
  have he := effect_of_exec hinv (fun _ => ⟨c, j, l, hm.2, hdec⟩) h
  have hpub := publishes_iff (i := i) hm
  refine ⟨?_, ?_, ?_, fun hpush hpop hclear => ?_⟩
  · rintro v rfl rfl
    exact he.push_appends hidx hm.1 (hpub.2 (.inr ⟨.inr ⟨v, rfl⟩, rfl⟩)) ha
  · rintro rfl rfl
    exact he.pop_takes_oldest hidx hm.1 (hpub.2 (.inr ⟨.inl rfl, rfl⟩)) ha
  · rintro rfl
    refine contents_of_clear (Bool.eq_false_iff.2 fun hrace => ?_) h
    rw [exec_clear_race hrace] at h
    cases h
    exact recordFault_ne_none s _ hsafe
  · refine he.contents_eq hidx (.inl hm.1) fun hp => ?_
    obtain hc | ⟨rfl | hv, hj⟩ := hpub.1 hp
    · exact hclear hc
    · exact hpop ⟨rfl, hj⟩
    · exact hpush ⟨hv, hj⟩

end Sys2Proof.Machine
end

section
/-! PROOFS. What every state operation keeps, every command keeps, in every state; what only a reset does (R21), and the
reset values (R35). -/

namespace Sys2Proof.Machine

/-- A meaning's outcome, where it is a next state, has the property `P`. -/
def NextHas (P : State → Prop) (r : Result) : Prop := ∀ t, r = .next t → P t

/-- `P` survives every state operation a meaning is made of (R14 to R17). -/
structure KeptByOps (P : State → Prop) : Prop where
  respond : ∀ s r, P s → P (respond r s)
  continueWith : ∀ s l, P s → P (continueWith l s)
  recordFault : ∀ s f, P s → P (recordFault f s)
  storeIdx : ∀ s r v, P s → P (storeIdx r v s)
  setIter : ∀ s k x, P s → P (setIter s k x)
  setSlot : ∀ s a v, P s → P { s with slots := setSlot s.slots a v }

section NextHas
variable {P : State → Prop} {s : State}

theorem nextHas_next (h : P s) : NextHas P (.next s) := by
  rintro t ⟨⟩
  exact h

theorem nextHas_refused (r : Refusal) : NextHas P (.refused r) := by
  rintro t ⟨⟩

theorem nextHas_withLocal {α : Type} {x : Option α} {k : α → Result} (h : ∀ a, NextHas P (k a)) :
    NextHas P (withLocal x k) := fun t ht => by
  obtain ⟨a, -, hk⟩ := withLocal_next ht
  exact h a t hk

theorem nextHas_microStep {k : Nat → Locals → Result} (h : ∀ j l, NextHas P (k j l)) :
    NextHas P (microStep s k) := fun t ht => by
  obtain ⟨-, j, l, -, hk⟩ := microStep_next ht
  exact h j l t hk

variable (hP : KeptByOps P)
include hP

theorem KeptByOps.whenAdmitted {i : Instr} {k : Result} (hs : P s) (h : NextHas P k) :
    NextHas P (whenAdmitted i s k) := fun t ht => by
  obtain ⟨-, hk⟩ | ⟨-, rfl⟩ := whenAdmitted_next ht
  · exact h t hk
  · exact hP.respond _ _ hs

theorem KeptByOps.memRead {a : Nat} {k : Nat → Result} (hs : P s) (h : ∀ v, NextHas P (k v)) :
    NextHas P (memRead a s k) := fun t ht => by
  obtain ⟨v, -, -, hk⟩ | ⟨-, rfl⟩ := memRead_next ht
  · exact h v t hk
  · exact hP.recordFault _ _ hs

theorem KeptByOps.memWrite {a v : Nat} {k : State → Result} (hs : P s) (h : ∀ u, P u → NextHas P (k u)) :
    NextHas P (memWrite a v s k) := fun t ht => by
  obtain ⟨-, hk⟩ := memWrite_next ht
  exact h _ (hP.setSlot _ _ _ hs) t hk

theorem KeptByOps.loadBoth {fin : Nat → Nat → State → State} (hs : P s) (h : ∀ a b, P (fin a b s)) :
    NextHas P (loadBoth s fin) := fun t ht => by
  obtain ⟨-, rfl⟩ | ⟨c, l, -, ⟨-, rfl⟩ | ⟨h', -, -, rfl⟩⟩ := loadBoth_next ht
  · exact h ..
  · exact hP.continueWith _ _ hs
  · exact h ..

variable (hs : P s)
include hs

/-- The second micro-step of the transfer commands: an answer, or on to the slot access. -/
theorem KeptByOps.answerOrGoOn (b : Prop) [Decidable b] (r : Response) (l : Locals) :
    NextHas P (if b then .next (Machine.respond r s) else .next (Machine.continueWith l s)) := by
  split
  · exact nextHas_next (hP.respond _ _ hs)
  · exact nextHas_next (hP.continueWith _ _ hs)

theorem KeptByOps.pushWhole (v : Nat) : NextHas P (pushWhole v s) := by
  unfold Machine.pushWhole
  dsimp only
  split
  · split
    · exact hP.memWrite (hP.storeIdx _ _ _ hs) fun u hu => nextHas_next (hP.respond _ _ (hP.storeIdx _ _ _ hu))
    · exact nextHas_next (hP.respond _ _ hs)
  · exact hP.memWrite hs fun u hu => nextHas_next (hP.respond _ _ (hP.storeIdx _ _ _ hu))

theorem KeptByOps.pushMicro (v : Nat) : NextHas P (pushMicro v s) := by
  refine nextHas_microStep fun j l => ?_
  split
  · exact nextHas_next (hP.continueWith _ _ hs)
  · exact nextHas_withLocal fun n => hP.answerOrGoOn hs _ _ _
  · exact nextHas_withLocal fun h => hP.memWrite hs fun u hu => nextHas_next (hP.continueWith _ _ hu)
  · exact nextHas_withLocal fun n => nextHas_next (hP.respond _ _ (hP.storeIdx _ _ _ hs))
  · exact nextHas_refused _

theorem KeptByOps.popWhole : NextHas P (popWhole s) := by
  unfold Machine.popWhole
  dsimp only
  split
  · exact nextHas_next (hP.respond _ _ hs)
  · exact hP.memRead hs fun v => nextHas_next (hP.respond _ _ (hP.storeIdx _ _ _ hs))

theorem KeptByOps.popMicro : NextHas P (popMicro s) := by
  refine nextHas_microStep fun j l => ?_
  split
  · exact nextHas_next (hP.continueWith _ _ hs)
  · exact nextHas_withLocal fun h => hP.answerOrGoOn hs _ _ _
  · exact nextHas_withLocal fun t => hP.memRead hs fun v => nextHas_next (hP.continueWith _ _ hs)
  · exact nextHas_withLocal fun t => nextHas_withLocal fun v =>
      nextHas_next (hP.respond _ _ (hP.storeIdx _ _ _ hs))
  · exact nextHas_refused _

theorem KeptByOps.peekWhole : NextHas P (peekWhole s) := by
  unfold Machine.peekWhole
  dsimp only
  split
  · exact nextHas_next (hP.respond _ _ hs)
  · exact hP.memRead hs fun v => nextHas_next (hP.respond _ _ hs)

theorem KeptByOps.peekMicro : NextHas P (peekMicro s) := by
  refine nextHas_microStep fun j l => ?_
  split
  · exact nextHas_next (hP.continueWith _ _ hs)
  · exact nextHas_withLocal fun h => hP.answerOrGoOn hs _ _ _
  · exact nextHas_withLocal fun t => hP.memRead hs fun v => nextHas_next (hP.respond _ _ hs)
  · exact nextHas_refused _

/-- What every state operation keeps, every command keeps, in every state. -/
theorem KeptByOps.exec (i : Instr) : NextHas P (exec i s) := by
  cases i with
  | nop =>
    simp only [Machine.exec, execNop]
    exact hP.whenAdmitted hs (nextHas_next (hP.respond _ _ hs))
  | push v =>
    simp only [Machine.exec, execPush]
    refine hP.whenAdmitted hs ?_
    split
    exacts [hP.pushMicro hs v, hP.pushWhole hs v]
  | pop =>
    simp only [Machine.exec, execPop]
    refine hP.whenAdmitted hs ?_
    split
    exacts [hP.popMicro hs, hP.popWhole hs]
  | peek =>
    simp only [Machine.exec, execPeek]
    refine hP.whenAdmitted hs ?_
    split
    exacts [hP.peekMicro hs, hP.peekWhole hs]
  | clear =>
    simp only [Machine.exec, execClear]
    refine hP.whenAdmitted hs ?_
    split
    · exact nextHas_next (hP.recordFault _ _ hs)
    · exact nextHas_next (hP.respond _ _ (hP.storeIdx _ _ _ (hP.storeIdx _ _ _ hs)))
  | isEmpty | isFull | len =>
    simp only [Machine.exec, execIsEmpty, execIsFull, execLen]
    exact hP.whenAdmitted hs (hP.loadBoth hs fun _ _ => hP.respond _ _ hs)
  | iterCreate k =>
    simp only [Machine.exec, execIterCreate]
    exact hP.whenAdmitted hs (hP.loadBoth hs fun _ _ => hP.respond _ _ (hP.setIter _ _ _ hs))
  | iterNext k =>
    simp only [Machine.exec, execIterNext]
    refine hP.whenAdmitted hs ?_
    split
    · exact nextHas_next (hP.respond _ _ hs)
    · exact hP.memRead hs fun v => nextHas_next (hP.respond _ _ (hP.setIter _ _ _ hs))

end NextHas

/-- Every slot written in `s` is written in `t`. -/
def StaysWritten (s t : State) : Prop := ∀ a, slotAt s.slots a ≠ none → slotAt t.slots a ≠ none

theorem StaysWritten.of_slots_eq {s t : State} (h : t.slots = s.slots) : StaysWritten s t := fun a ha => by rwa [h]

/-- No state operation unwrites a slot. -/
theorem keptByOps_staysWritten (s : State) : KeptByOps (StaysWritten s) where
  respond u r h a ha := by simpa using h a ha
  continueWith u l h a ha := by simpa using h a ha
  recordFault u f h a ha := by simpa using h a ha
  storeIdx u r v h a ha := by simpa using h a ha
  setIter u k x h := h
  setSlot u b v h a ha := slotAt_setSlot_ne_none b v (h a ha)

/-- Settles O44: no action but a reset unwrites a slot, and a reset is taken exactly if `rst = 1`. -/
theorem onlyResetUnwritesSlots : Obligations.OnlyResetUnwritesSlots := by
  intro s t h
  have hreset := selectAction_eq_reset_iff (x := nextInput s) (s := edge s)
  obtain ⟨-, ⟨ha, rfl⟩ | hrest⟩ := step_next h
  · refine ⟨fun hr => ?_, fun _ a => rfl⟩
    simp [hreset.1 ha] at hr
  · refine ⟨fun _ => ?_, fun hr => ?_⟩
    · show StaysWritten s t
      obtain ⟨-, ⟨-, rfl⟩ | ⟨c, -, rfl⟩ | ⟨c, e, -, -, rfl⟩ | ⟨c, i, -, -, h⟩⟩ := hrest
      · exact .of_slots_eq rfl
      · exact .of_slots_eq (setPort_slots ..)
      · exact .of_slots_eq (respond_slots ..)
      · exact (keptByOps_staysWritten (edge s)).exec (fun _ => id) i t h
    · obtain ⟨-, ⟨ha, -⟩ | ⟨c, ha, -⟩ | ⟨c, e, ha, -, -⟩ | ⟨c, i, ha, -, -⟩⟩ := hrest <;>
        simp [hreset.2 hr] at ha

/-- Every context is zero after reset, one that the block does not have included (R35). -/
theorem iterAt_resetOf (cfg : Config) (k : CtxNum) :
    iterAt (State.resetOf cfg) k = { cursor := 0, remaining := 0 } := by
  simp only [iterAt, resetOf_toBlockState, BlockState.resetOf, List.getElem?_replicate]
  split <;> rfl

/-- The full output after reset: a next index of 0 is what only one slot has (R35). -/
theorem fullOutput_resetOf {cfg : Config} (h : badConfig cfg = none) :
    fullOutput (State.resetOf cfg) = true ↔ cfg.capacity = 1 := by
  rw [fullOutput_eq_true_iff]
  show advance cfg 0 = 0 ↔ cfg.capacity = 1
  rw [advance_eq_ite (capacity_pos_of_legal h)]
  split <;> omega

/-- Settles O22: the values are those `State.resetOf` is built from. -/
theorem resetStateValues : Obligations.ResetStateValues := fun cfg h =>
  ⟨rfl, rfl, rfl, fun _ => rfl, List.length_replicate, iterAt_resetOf cfg, portAt_resetOf cfg, rfl, fun _ => rfl, rfl,
    fullOutput_resetOf h⟩

end Sys2Proof.Machine
end

section
/-! PROOFS. What a command can lead to in every state, the invariant or not: an update of the buffer or of a context,
then an answer or the next micro-step on the port that moves. Who writes an index (R65), what changes the buffer (R56),
and who answers (R73, R74). -/

namespace Sys2Proof.Machine

/-- What a command can have done to the buffer and the contexts when it answers or goes on. -/
inductive Update (s : State) : Instr → State → Prop where
  /-- nothing -/
  | keep (i : Instr) : Update s i s
  /-- a whole PUSH with room -/
  | push (v : Nat) (hts : s.cfg.threadSafe = false) : Update s (.push v) (advanceHead (writeHead v s))
  /-- a whole PUSH that drops the oldest element -/
  | overwrite (v : Nat) (hts : s.cfg.threadSafe = false) (hov : s.cfg.overwriteOnFull = true) :
    Update s (.push v) (advanceHead (writeHead v (advanceTail s)))
  /-- PUSH's s3 -/
  | write (v a : Nat) : Update s (.push v) { s with slots := setSlot s.slots a (fitWidth s.cfg v) }
  /-- PUSH's s4 -/
  | publish (v n : Nat) (hp : activePort s = .prod) : Update s (.push v) (storeIdx .head n s)
  /-- a whole POP, and POP's s4 -/
  | take (n : Nat) (hp : activePort s ≠ .prod) : Update s .pop (storeIdx .tail n s)
  /-- CLEAR -/
  | clear (hother : (s.cfg.threadSafe && inFlight (portAt s (otherPort (activePort s)))) = false) :
    Update s .clear (clearIndices s)
  /-- ITER_CREATE and ITER_NEXT -/
  | context (i : Instr) (k : CtxNum) (x : IterCtx) (hi : i = .iterCreate k ∨ i = .iterNext k) :
    Update s i (setIter s k x)

/-- The next states the command `i` can lead to. -/
inductive Leads (s : State) (i : Instr) : State → Prop where
  | answer {u : State} (r : Response) (hu : Update s i u) : Leads s i (respond r u)
  | goOn {u : State} (l : Locals) (hu : Update s i u) (hts : s.cfg.threadSafe = true) : Leads s i (continueWith l u)
  | fault (f : ModelFault) : Leads s i (recordFault f s)

/-! ### Every command leads to one of them -/

section Outcomes
variable {s : State} {i : Instr}

theorem Leads.respond (r : Response) : Leads s i (respond r s) := .answer r (.keep i)

theorem leads_whenAdmitted {k : Result} (h : admitted s.cfg (activePort s) i = true → NextHas (Leads s i) k) :
    NextHas (Leads s i) (whenAdmitted i s k) := fun t ht => by
  obtain ⟨ha, hk⟩ | ⟨-, rfl⟩ := whenAdmitted_next ht
  · exact h ha t hk
  · exact .respond _

theorem leads_memRead {a : Nat} {k : Nat → Result} (h : ∀ v, NextHas (Leads s i) (k v)) :
    NextHas (Leads s i) (memRead a s k) := fun t ht => by
  obtain ⟨v, -, -, hk⟩ | ⟨-, rfl⟩ := memRead_next ht
  · exact h v t hk
  · exact .fault _

theorem nextHas_memWrite {P : State → Prop} {u : State} {a v : Nat} {k : State → Result}
    (h : NextHas P (k { u with slots := setSlot u.slots a (fitWidth u.cfg v) })) :
    NextHas P (memWrite a v u k) := fun t ht => h t (memWrite_next ht).2

theorem leads_loadBoth {fin : Nat → Nat → State → State} (h : ∀ a b, Leads s i (fin a b s)) :
    NextHas (Leads s i) (loadBoth s fin) := fun t ht => by
  obtain ⟨-, rfl⟩ | ⟨c, l, hts, ⟨-, rfl⟩ | ⟨h', -, -, rfl⟩⟩ := loadBoth_next ht
  · exact h ..
  · exact .goOn _ (.keep i) hts
  · exact h ..

theorem leads_answerOrGoOn (hts : s.cfg.threadSafe = true) (b : Prop) [Decidable b] (r : Response) (l : Locals) :
    NextHas (Leads s i) (if b then .next (Machine.respond r s) else .next (continueWith l s)) := by
  split
  · exact nextHas_next (.respond r)
  · exact nextHas_next (.goOn l (.keep i) hts)

theorem leads_pushWhole (v : Nat) (hts : s.cfg.threadSafe = false) :
    NextHas (Leads s (.push v)) (pushWhole v s) := by
  unfold pushWhole
  dsimp only
  split
  · split
    · next hov => exact nextHas_memWrite (nextHas_next (.answer _ (.overwrite v hts hov)))
    · exact nextHas_next (.respond _)
  · exact nextHas_memWrite (nextHas_next (.answer _ (.push v hts)))

theorem leads_pushMicro (v : Nat) (hts : s.cfg.threadSafe = true) (hp : activePort s = .prod) :
    NextHas (Leads s (.push v)) (pushMicro v s) := by
  refine nextHas_microStep fun j l => ?_
  split
  · exact nextHas_next (.goOn _ (.keep _) hts)
  · exact nextHas_withLocal fun n => leads_answerOrGoOn hts _ _ _
  · exact nextHas_withLocal fun h => nextHas_memWrite (nextHas_next (.goOn _ (.write v h) hts))
  · exact nextHas_withLocal fun n => nextHas_next (.answer _ (.publish v n hp))
  · exact nextHas_refused _

theorem leads_popWhole (hp : activePort s ≠ .prod) : NextHas (Leads s .pop) (popWhole s) := by
  unfold popWhole
  dsimp only
  split
  · exact nextHas_next (.respond _)
  · exact leads_memRead fun v => nextHas_next (.answer _ (.take _ hp))

theorem leads_popMicro (hts : s.cfg.threadSafe = true) (hp : activePort s ≠ .prod) :
    NextHas (Leads s .pop) (popMicro s) := by
  refine nextHas_microStep fun j l => ?_
  split
  · exact nextHas_next (.goOn _ (.keep _) hts)
  · exact nextHas_withLocal fun h => leads_answerOrGoOn hts _ _ _
  · exact nextHas_withLocal fun t => leads_memRead fun v => nextHas_next (.goOn _ (.keep _) hts)
  · exact nextHas_withLocal fun t => nextHas_withLocal fun v => nextHas_next (.answer _ (.take _ hp))
  · exact nextHas_refused _

theorem leads_peekWhole : NextHas (Leads s .peek) (peekWhole s) := by
  unfold peekWhole
  dsimp only
  split
  · exact nextHas_next (.respond _)
  · exact leads_memRead fun v => nextHas_next (.respond _)

theorem leads_peekMicro (hts : s.cfg.threadSafe = true) : NextHas (Leads s .peek) (peekMicro s) := by
  refine nextHas_microStep fun j l => ?_
  split
  · exact nextHas_next (.goOn _ (.keep _) hts)
  · exact nextHas_withLocal fun h => leads_answerOrGoOn hts _ _ _
  · exact nextHas_withLocal fun t => leads_memRead fun v => nextHas_next (.respond _)
  · exact nextHas_refused _

/-- A port that runs PUSH when THREAD_SAFE = 1 is PROD (R86). -/
theorem activePort_of_admitted_push {v : Nat} (hts : s.cfg.threadSafe = true)
    (ha : admitted s.cfg (activePort s) (.push v) = true) : activePort s = .prod := by
  have hm := activePort_ne_main hts
  cases hp : activePort s <;> simp_all [admitted, permitted]

/-- A port that runs POP is not PROD (R86). -/
theorem activePort_of_admitted_pop (ha : admitted s.cfg (activePort s) .pop = true) : activePort s ≠ .prod := by
  intro hp
  simp [hp, admitted, permitted] at ha

/-- What a command can lead to, in every state. -/
theorem exec_leads {t : State} (h : exec i s = .next t) : Leads s i t := by
  suffices NextHas (Leads s i) (exec i s) from this t h
  cases i with
  | nop => exact leads_whenAdmitted fun _ => nextHas_next (.respond _)
  | push v =>
    refine leads_whenAdmitted fun ha => ?_
    split
    · next hts => exact leads_pushMicro v hts (activePort_of_admitted_push hts ha)
    · next hts => exact leads_pushWhole v (Bool.eq_false_iff.2 hts)
  | pop =>
    refine leads_whenAdmitted fun ha => ?_
    have hp := activePort_of_admitted_pop ha
    split
    · next hts => exact leads_popMicro hts hp
    · exact leads_popWhole hp
  | peek =>
    refine leads_whenAdmitted fun _ => ?_
    split
    · next hts => exact leads_peekMicro hts
    · exact leads_peekWhole
  | clear =>
    rw [exec_clear_eq]
    split
    · exact nextHas_next (.fault _)
    · next hrace => exact nextHas_next (.answer _ (.clear (Bool.eq_false_iff.2 hrace)))
  | isEmpty | isFull | len =>
    simp only [exec, execIsEmpty, execIsFull, execLen]
    exact leads_whenAdmitted fun _ => leads_loadBoth fun _ _ => .respond _
  | iterCreate k =>
    simp only [exec, execIterCreate]
    exact leads_whenAdmitted fun _ => leads_loadBoth fun _ _ => .answer _ (.context _ k _ (.inl rfl))
  | iterNext k =>
    refine leads_whenAdmitted fun _ => ?_
    split
    · exact nextHas_next (.respond _)
    · exact leads_memRead fun v => nextHas_next (.answer _ (.context _ k _ (.inr rfl)))

end Outcomes

/-! ### The buffer after a command -/

theorem SameBlock.trans {s t u : State} (hst : SameBlock s t) (htu : SameBlock t u) : SameBlock s u where
  cfg := htu.cfg.trans hst.cfg
  head := htu.head.trans hst.head
  tail := htu.tail.trans hst.tail
  slots := htu.slots.trans hst.slots
  iters := htu.iters.trans hst.iters

/-- The buffer a command leaves is one of its updates. -/
theorem Leads.exists_update {s t : State} {i : Instr} (h : Leads s i t) : ∃ u, Update s i u ∧ SameBlock u t := by
  cases h with
  | @answer u r hu => exact ⟨u, hu, sameBlock_respond u r⟩
  | @goOn u l hu => exact ⟨u, hu, sameBlock_continueWith u l⟩
  | fault f => exact ⟨s, .keep i, sameBlock_recordFault s f⟩

section Update
variable {s u : State} {i : Instr} (hu : Update s i u)
include hu

theorem Update.slots_eq (hi : ¬∃ v, i = .push v) : u.slots = s.slots := by
  cases hu with
  | push v | overwrite v | write v | publish v => exact absurd ⟨v, rfl⟩ hi
  | keep | take | clear | context => simp

theorem Update.head_eq (hpush : ¬∃ v, i = .push v) (hclear : i ≠ .clear) : u.head = s.head := by
  cases hu with
  | push v | overwrite v | write v | publish v => exact absurd ⟨v, rfl⟩ hpush
  | clear => exact absurd rfl hclear
  | keep | take | context => simp

theorem Update.tail_eq (hpop : i ≠ .pop) (hclear : i ≠ .clear)
    (hov : ¬(s.cfg.threadSafe = false ∧ s.cfg.overwriteOnFull = true ∧ ∃ v, i = .push v)) : u.tail = s.tail := by
  cases hu with
  | overwrite v hts hon => exact absurd ⟨hts, hon, v, rfl⟩ hov
  | take => exact absurd rfl hpop
  | clear => exact absurd rfl hclear
  | keep | push | write | publish | context => simp

theorem Update.iterAt_eq (k : CtxNum) (hcreate : i ≠ .iterCreate k) (hnext : i ≠ .iterNext k) :
    iterAt u k = iterAt s k := by
  cases hu with
  | context _ k' x hi =>
    have hne : k'.toNat ≠ k.toNat := fun he => by
      obtain rfl := BitVec.eq_of_toNat_eq he
      exact hi.elim hcreate hnext
    simp [iterAt, List.getElem?_set_ne hne]
  | keep | push | overwrite | write | publish | take | clear => rfl

/-- When THREAD_SAFE = 1 only PROD writes `head`, but for CLEAR (R65). -/
theorem Update.head_owner (hts : s.cfg.threadSafe = true) (hclear : i ≠ .clear) (hne : u.head ≠ s.head) :
    activePort s = .prod ∧ ∃ v, i = .push v := by
  cases hu with
  | publish v _ hp => exact ⟨hp, v, rfl⟩
  | push _ hf | overwrite _ hf => simp [hts] at hf
  | clear => exact absurd rfl hclear
  | keep | write | take | context => simp at hne

/-- When THREAD_SAFE = 1 only CONS writes `tail`, but for CLEAR (R65). -/
theorem Update.tail_owner (hts : s.cfg.threadSafe = true) (hclear : i ≠ .clear) (hne : u.tail ≠ s.tail) :
    activePort s = .cons ∧ i = .pop := by
  cases hu with
  | take _ hp => exact ⟨activePort_eq_cons hts hp, rfl⟩
  | overwrite _ hf => simp [hts] at hf
  | clear => exact absurd rfl hclear
  | keep | push | write | publish | context => simp at hne

end Update

/-- Being in flight, written out (R32). -/
theorem inFlight_eq_true_iff (x : PortState) : inFlight x = true ↔ ∃ c j l, x.phase = .busy c j l ∧ 2 ≤ j := by
  cases h : x.phase <;> simp [inFlight, h]

/-- Settles O45: the update that moved the index is PUSH's s4, POP's s4, or CLEAR's with the other port quiescent. -/
theorem singleWriterPerIndex : Obligations.SingleWriterPerIndex := by
  intro s t i hts h
  obtain ⟨u, hu, hsame⟩ := (exec_leads h).exists_update
  rw [hsame.head, hsame.tail]
  refine ⟨hu.head_owner hts, hu.tail_owner hts, ?_⟩
  rintro rfl hmoved
  rw [← inFlight_eq_true_iff]
  cases hu with
  | clear hother => simpa [hts] using hother
  | keep => simp at hmoved
  | context _ _ _ hi => simp at hi

/-- A slot read that goes on is in range. -/
theorem lt_of_memRead_next {a : Nat} {s t : State} {k : Nat → Result} (h : memRead a s k = .next t) :
    a < s.cfg.capacity := by
  by_contra ha
  simp [memRead, ha] at h

/-- A slot read of the unwritten marker records the fault (R14). -/
theorem memRead_none {a : Nat} {s : State} (k : Nat → Result) (ha : a < s.cfg.capacity) (hv : slotAt s.slots a = none) :
    memRead a s k = .next (recordFault .unwrittenSlotRead s) := by simp [memRead, ha, hv]

/-- PEEK of a buffer that is not empty is a read of the slot of `tail` (R133). -/
theorem peekWhole_of_ne {s : State} (hne : s.head ≠ s.tail) :
    peekWhole s = memRead s.tail s fun v => .next (respond { status := .ok, data := v } s) :=
  if_neg hne.symm

/-- PEEK answers, or records the fault, by what `SameBlock` fixes: it does the same in every state of the same block
(R133). -/
theorem peekWhole_next {s t : State} (h : peekWhole s = .next t) :
    (∃ r, t = respond r s ∧ ∀ u, SameBlock s u → peekWhole u = .next (respond r u)) ∨
      (t = recordFault .unwrittenSlotRead s ∧
        ∀ u, SameBlock s u → peekWhole u = .next (recordFault .unwrittenSlotRead u)) := by
  by_cases he : s.head = s.tail
  · cases (peekWhole_empty he).symm.trans h
    exact .inl ⟨_, rfl, fun u hu => peekWhole_empty (by rw [hu.head, hu.tail, he])⟩
  · have hne : ∀ u, SameBlock s u → u.head ≠ u.tail := fun u hu => by rwa [hu.head, hu.tail]
    rw [peekWhole_of_ne he] at h
    have hlt : ∀ u, SameBlock s u → u.tail < u.cfg.capacity := fun u hu => by
      rw [hu.tail, hu.cfg]
      exact lt_of_memRead_next h
    obtain ⟨v, -, hv, h⟩ | ⟨hv, rfl⟩ := memRead_next h
    · cases h
      exact .inl ⟨_, rfl, fun u hu => peekWhole_value (hlt u hu) (hne u hu) (by rwa [hu.slots, hu.tail])⟩
    · refine .inr ⟨rfl, fun u hu => ?_⟩
      rw [peekWhole_of_ne (hne u hu), memRead_none _ (hlt u hu) (by rwa [hu.slots, hu.tail])]

/-- Two whole PEEKs in a row answer the same and leave the block (R56, R133). -/
theorem peek_peek {s t u : State} (hts : s.cfg.threadSafe = false) (ht : exec .peek s = .next t)
    (hu : exec .peek t = .next u) : u.main.rsp = t.main.rsp ∧ SameBlock s u := by
  have hts' : t.cfg.threadSafe = false := by rw [exec_cfg ht, hts]
  rw [exec_peek_of_whole hts] at ht
  rw [exec_peek_of_whole hts'] at hu
  obtain ⟨r, rfl, hsame⟩ | ⟨rfl, hsame⟩ := peekWhole_next ht
  · rw [hsame _ (sameBlock_respond s r)] at hu
    cases hu
    rw [main_rsp_respond hts, main_rsp_respond hts']
    exact ⟨rfl, (sameBlock_respond s r).trans (sameBlock_respond _ r)⟩
  · have hrec := sameBlock_recordFault s .unwrittenSlotRead
    rw [hsame _ hrec] at hu
    cases hu
    exact ⟨congrArg PortState.rsp (portAt_recordFault _ _ .main), hrec.trans (sameBlock_recordFault _ _)⟩

/-- Settles O46: each frame from the update the command made, and PEEK's idempotence from `peekWhole_next`. -/
theorem onlyTheseCommandsChangeState : Obligations.OnlyTheseCommandsChangeState := by
  refine ⟨fun s t i h => ?_, fun s t u hts ht hu => ?_⟩
  · obtain ⟨u, hu, hsame⟩ := (exec_leads h).exists_update
    have hiter : ∀ k, iterAt t k = iterAt u k := fun k => by rw [iterAt, hsame.iters, iterAt]
    simp only [hsame.slots, hsame.head, hsame.tail, hiter]
    refine ⟨fun hne => ?_, fun hne => ?_, fun hne => ?_, fun k hne => ?_⟩
    · by_contra hi
      exact hne (hu.slots_eq hi)
    · by_contra! hi
      exact hne (hu.head_eq (by simpa using hi.2) hi.1)
    · by_contra! hi
      exact hne (hu.tail_eq hi.1 hi.2.1 (by simpa using hi.2.2))
    · by_contra! hi
      exact hne (hu.iterAt_eq k hi.1 hi.2)
  · obtain ⟨hrsp, hsame⟩ := peek_peek hts ht hu
    exact ⟨hrsp, by rw [hsame.cfg, hsame.head, hsame.tail]⟩

/-! ### Who answers -/

/-- `u` is `s` but for the buffer and the contexts. -/
structure SameOutside (s u : State) : Prop where
  ports : ∀ p, portAt u p = portAt s p
  rest : SameRest s u

theorem SameOutside.refl (s : State) : SameOutside s s := ⟨fun _ => rfl, rfl, rfl, rfl, rfl⟩

theorem SameOutside.activePort_eq {s u : State} (h : SameOutside s u) : activePort u = activePort s := by
  obtain ⟨hcfg, -, hturn, -⟩ := h.rest
  simp only [activePort, hcfg, hturn]

/-- An update writes no port. -/
theorem Update.sameOutside {s u : State} {i : Instr} (hu : Update s i u) : SameOutside s u := by
  cases hu <;> exact ⟨fun p => by simp, rfl, rfl, rfl, rfl⟩

section Outside
variable {s u : State} (hu : SameOutside s u)
include hu

/-- `respond` after an update is an answer (R16, R73). -/
theorem SameOutside.answers (r : Response) : Answers r s (respond r u) := by
  have hact := hu.activePort_eq
  refine ⟨?_, fun q hq => ?_, ?_⟩
  · rw [← hact, portAt_respond_active, hu.ports]
    rfl
  · rw [portAt_respond_other u r (hact ▸ hq), hu.ports]
  · simpa [SameRest] using hu.rest

/-- Going on after an update is the next micro-step of the same command (R17). -/
theorem SameOutside.goesOn (l : Locals) {c : Command} {j : Nat} {l₀ : Locals}
    (hbusy : (portAt s (activePort s)).phase = .busy c j l₀) : GoesOn c j l s (continueWith l u) := by
  have hact := hu.activePort_eq
  have hbusy' : (portAt u (activePort u)).phase = .busy c j l₀ := by rw [hact, hu.ports, hbusy]
  refine ⟨?_, fun q hq => ?_, ?_⟩
  · rw [continueWith_busy u l hbusy', hact, portAt_setPort_same, hu.ports]
  · rw [portAt_continueWith_other u l (hact ▸ hq), hu.ports]
  · simpa [SameRest] using hu.rest

end Outside

section Leads
variable {s t : State} {i : Instr} (h : Leads s i t)
include h

/-- A command changes no port but the one that moves (R73). -/
theorem Leads.sameOtherPorts : SameOtherPorts (activePort s) s t := by
  intro q hq
  cases h with
  | @answer u r hu => exact (hu.sameOutside.answers r).2.1 q hq
  | @goOn u l hu =>
    have hout := hu.sameOutside
    rw [portAt_continueWith_other u l (hout.activePort_eq ▸ hq), hout.ports]
  | fault f => exact portAt_recordFault ..

/-- A command that records no fault answers, or goes on where THREAD_SAFE = 1 and the port is busy. -/
theorem Leads.answers_or_goesOn (ht : Safe t) :
    (∃ r, Answers r s t) ∨
      s.cfg.threadSafe = true ∧ ∀ c j l, (portAt s (activePort s)).phase = .busy c j l → ∃ l', GoesOn c j l' s t := by
  cases h with
  | @answer u r hu => exact .inl ⟨r, hu.sameOutside.answers r⟩
  | @goOn u l hu hts => exact .inr ⟨hts, fun c j l₀ hbusy => ⟨l, hu.sameOutside.goesOn l hbusy⟩⟩
  | fault f => exact absurd ht (recordFault_ne_none s f)

end Leads

/-- Settles O48: what a command leads to is an answer, the next micro-step, or a recorded fault. -/
theorem eachCommandAnswersOnceOnItsPort : Obligations.EachCommandAnswersOnceOnItsPort := by
  intro s t i h
  have hl := exec_leads h
  refine ⟨hl.sameOtherPorts, fun hts _ ht => ?_, fun c j l hm _ ht => ?_⟩
  · obtain hr | ⟨hts', -⟩ := hl.answers_or_goesOn ht
    · exact hr
    · simp [hts] at hts'
  · exact (hl.answers_or_goesOn ht).imp_right fun hgo => hgo.2 c j l hm.2

end Sys2Proof.Machine
end

section
/-! PROOFS. Which action a step selects and what it then runs (R60, R61, R94, R235), and that held commands finish
(R74). -/

namespace Sys2Proof.Machine

/-! ### The edge and the action -/

section Edge
variable (s : State)

@[simp] theorem edge_cfg : (edge s).cfg = s.cfg := rfl
@[simp] theorem edge_modelFault : (edge s).modelFault = s.modelFault := rfl
@[simp] theorem edge_inputs : (edge s).inputs = s.inputs.tail := rfl
@[simp] theorem edge_turn : (edge s).turn = (nextInput s).turn := rfl
@[simp] theorem portAt_edge (p : PortId) : portAt (edge s) p = endPulse (portAt s p) := by cases p <;> rfl
@[simp] theorem endPulse_phase (x : PortState) : (endPulse x).phase = x.phase := rfl
@[simp] theorem endPulse_log (x : PortState) : (endPulse x).log = x.log := rfl

end Edge

/-- The port of an end when THREAD_SAFE = 1 (R59). -/
def sidePort (d : Side) : PortId :=
  match d with
  | .producer => .prod
  | .consumer => .cons

theorem activePort_of_threadSafe {s : State} (hts : s.cfg.threadSafe = true) : activePort s = sidePort s.turn := by
  simp only [activePort, hts, if_true]
  rfl

section Inputs
variable {s : State} {x : Input} {rest : List Input} (hx : s.inputs = x :: rest)
include hx

theorem nextInput_eq_head : nextInput s = x := by rw [nextInput, hx]

/-- What the edge does, written out (log entries 5 and 8). -/
theorem edge_eq : edge s = { s with
    inputs := rest
    turn := x.turn
    main := { s.main with rspValid := false }
    prod := { s.prod with rspValid := false }
    cons := { s.cons with rspValid := false } } := by
  simp only [edge, nextInput_eq_head hx, hx, List.tail_cons, endPulse]

end Inputs

section Action
variable {x : Input} {s : State} {c : Command} (hr : x.rst = false)
include hr

/-- A command presented when THREAD_SAFE = 0 is run whole (R60). -/
theorem selectAction_presented (hts : s.cfg.threadSafe = false) (hc : x.cmd = some c) :
    selectAction x s = .run (sample s.cfg c) := by
  simp [selectAction, hr, hts, hc]

/-- A busy port goes on with the command it holds, whatever is presented (R61, R235). -/
theorem selectAction_held {j : Nat} {l : Locals} (hts : s.cfg.threadSafe = true)
    (hbusy : (portAt s (activePort s)).phase = .busy c j l) : selectAction x s = .run c := by
  simp [selectAction, hr, hts, hbusy]

/-- Nothing presented and an idle port: nothing is done. -/
theorem selectAction_nothing (hc : x.cmd = none) (hidle : (portAt s (activePort s)).phase = .idle) :
    selectAction x s = .idle := by
  cases hts : s.cfg.threadSafe <;> simp [selectAction, hr, hts, hc, hidle]

end Action

/-- A sampled operand that fits is not cut (R94). -/
theorem sample_of_lt {cfg : Config} {c : Command} (h : c.data < 2 ^ cfg.dataWidth) : sample cfg c = c := by
  rw [sample, fitWidth_of_lt h]

theorem runCommand_ok {c : Command} {i : Instr} (s : State) (hi : decode c = .ok i) : runCommand c s = exec i s := by
  rw [runCommand, hi]

theorem runCommand_error {c : Command} {e : DecodeError} (s : State) (he : decode c = .error e) :
    runCommand c s = .next (respondIllegal s) := by
  rw [runCommand, he]

section Step
variable {s : State} (hlegal : Legal s) (hsafe : Safe s)
include hlegal hsafe

/-- A step that runs a command is that command, in the state after the edge. -/
theorem step_of_run {c : Command} (ha : selectAction (nextInput s) (edge s) = .run c) :
    step s = runCommand c (edge s) := by
  simp [step_eq_takeStep, takeStep, hlegal, ha, hsafe]

/-- A step that does nothing is the edge. -/
theorem step_of_idle (ha : selectAction (nextInput s) (edge s) = .idle) : step s = .next (edge s) := by
  simp [step_eq_takeStep, takeStep, hlegal, ha, hsafe]

end Step

/-- Settles O17: the presented command is selected, and sampling does not cut its operand. -/
theorem stepRunsPresentedCommand : Obligations.StepRunsPresentedCommand := by
  intro s d c rest i hlegal hsafe hts hin hdata hi
  have ha : selectAction (nextInput s) (edge s) = .run (sample s.cfg c) := by
    rw [nextInput_eq_head hin]
    exact selectAction_presented rfl hts rfl
  rw [sample_of_lt hdata] at ha
  exact ⟨(step_of_run hlegal hsafe ha).trans (runCommand_ok _ hi), edge_eq hin, activePort_of_whole hts⟩

/-- Settles O18: the port that moves is that of the input's end, and it goes on with the command it holds. -/
theorem stepRunsHeldCommand : Obligations.StepRunsHeldCommand := by
  intro s x rest p c j l i hlegal hsafe hts hin hr hp hbusy hi
  have hact : activePort (edge s) = p := by
    rw [activePort_of_threadSafe (s := edge s) hts, edge_turn, nextInput_eq_head hin, hp]
    rfl
  have ha : selectAction (nextInput s) (edge s) = .run c := by
    rw [nextInput_eq_head hin]
    exact selectAction_held hr hts (by rw [hact, portAt_edge]; exact hbusy)
  exact ⟨(step_of_run hlegal hsafe ha).trans (runCommand_ok _ hi), edge_eq hin, hact⟩

/-! ### Held commands finish -/

/-- No command relies on anything past its fourth micro-step. -/
theorem Relies.le_four {s : State} {p : PortId} {j : Nat} {l : Locals} {i : Instr} (h : Relies s p j l i) : j ≤ 4 := by
  cases p <;> cases i <;> simp only [Relies, ProdRelies, ConsRelies] at h <;> omega

/-- The number of a held command's next micro-step (R32). -/
theorem microStep_bounds {s : State} {p : PortId} {c : Command} {j : Nat} {l : Locals} (hinv : Inv s)
    (hbusy : (portAt s p).phase = .busy c j l) : 1 ≤ j ∧ j ≤ 4 := by
  obtain ⟨-, -, hphase⟩ := (inv_iff s).1 hinv
  obtain ⟨-, -, rfl | ⟨i, -, hr⟩⟩ := (phaseOk_busy_iff ((hphase p).ne_main hbusy) hbusy).1 (hphase p)
  · omega
  · have := hr.two_le
    have := hr.le_four
    omega

/-- The most micro-steps a port can still have before it answers. -/
def workLeft (x : PortState) : Nat :=
  match x.phase with
  | .idle => 0
  | .busy _ j _ => 5 - j

theorem workLeft_idle {x : PortState} (h : x.phase = .idle) : workLeft x = 0 := by rw [workLeft, h]
theorem workLeft_busy {x : PortState} {c : Command} {j : Nat} {l : Locals} (h : x.phase = .busy c j l) :
    workLeft x = 5 - j := by rw [workLeft, h]

theorem workLeft_le_four {s : State} (hinv : Inv s) (p : PortId) : workLeft (portAt s p) ≤ 4 := by
  cases h : (portAt s p).phase with
  | idle => simp [workLeft_idle h]
  | busy c j l =>
    have := microStep_bounds hinv h
    rw [workLeft_busy h]
    omega

theorem idle_of_workLeft {s : State} {p : PortId} (hinv : Inv s) (h : workLeft (portAt s p) = 0) :
    (portAt s p).phase = .idle := by
  cases hp : (portAt s p).phase with
  | idle => rfl
  | busy c j l =>
    have := microStep_bounds hinv hp
    rw [workLeft_busy hp] at h
    omega

/-- The most micro-steps the two ports can still have. -/
def totalWork (s : State) : Nat := workLeft (portAt s .prod) + workLeft (portAt s .cons)

/-- The states of a block that is given nothing more, and holds no CLEAR. -/
structure Draining (s : State) : Prop where
  inv : Inv s
  legal : Legal s
  safe : Safe s
  inputs : s.inputs = []
  noClear : ∀ p c j l, (portAt s p).phase = .busy c j l → decode c ≠ .ok .clear

/-- Only CLEAR records a fault, from a state with the invariant. -/
theorem Effect.safe {s t : State} {i : Instr} (he : Effect s i t) (hi : i ≠ .clear) (hsafe : Safe s) : Safe t := by
  cases he with
  | race => exact absurd rfl hi
  | illegal | answer | goOn | write | publish | pushWhole | overwrite | take | clear | create | nextIter =>
    simpa [Safe, respondIllegal] using hsafe

/-- From `s` to `t` the port that moves answered, or went on with the command `c` it holds at micro-step `j`. -/
def Moves (c : Command) (j : Nat) (s t : State) : Prop := (∃ r, Answers r s t) ∨ ∃ l, GoesOn c j l s t

section Moves
variable {s t : State} {c : Command} {j : Nat} (h : Moves c j s t)
include h

theorem Moves.sameOtherPorts : SameOtherPorts (activePort s) s t := by
  obtain ⟨r, -, hother, -⟩ | ⟨l, -, hother, -⟩ := h <;> exact hother

theorem Moves.sameRest : SameRest s t := by
  obtain ⟨r, -, -, hrest⟩ | ⟨l, -, -, hrest⟩ := h <;> exact hrest

theorem Moves.phase :
    (portAt t (activePort s)).phase = .idle ∨ ∃ l, (portAt t (activePort s)).phase = .busy c (j + 1) l := by
  obtain ⟨r, hport, -⟩ | ⟨l, hport, -⟩ := h
  · exact .inl (by rw [hport])
  · exact .inr ⟨l, by rw [hport]⟩

/-- A micro-step leaves its port less to do. -/
theorem Moves.workLeft_lt {l : Locals} (hbusy : (portAt s (activePort s)).phase = .busy c j l) (hj : j ≤ 4) :
    workLeft (portAt t (activePort s)) < workLeft (portAt s (activePort s)) := by
  rw [workLeft_busy hbusy]
  obtain hp | ⟨l', hp⟩ := h.phase
  · rw [workLeft_idle hp]
    omega
  · rw [workLeft_busy hp]
    omega

end Moves

/-- Less work on one port, and the same on the other, is less work in all. -/
theorem totalWork_lt {s t : State} {p : PortId} (hm : p ≠ .main)
    (hother : ∀ q, q ≠ p → (portAt t q).phase = (portAt s q).phase)
    (hlt : workLeft (portAt t p) < workLeft (portAt s p)) : totalWork t < totalWork s := by
  have hsame : ∀ q, q ≠ p → workLeft (portAt t q) = workLeft (portAt s q) := fun q hq => by
    simp only [workLeft, hother q hq]
  unfold totalWork
  cases p with
  | main => exact absurd rfl hm
  | prod =>
    rw [hsame .cons nofun]
    omega
  | cons =>
    rw [hsame .prod nofun]
    omega

/-- A held command other than CLEAR moves its port, a reserved `op` included. -/
theorem runCommand_moves {s : State} {c : Command} {j : Nat} {l : Locals} (hinv : Inv s) (hsafe : Safe s)
    (hm : AtMicro s c j l) (hclear : decode c ≠ .ok .clear) :
    ∃ t, runCommand c s = .next t ∧ Safe t ∧ Moves c j s t := by
  cases hi : decode c with
  | error e =>
    rw [runCommand_error s hi]
    exact ⟨_, rfl, by simpa [Safe, respondIllegal] using hsafe, .inl ⟨_, (SameOutside.refl s).answers _⟩⟩
  | ok i =>
    obtain ⟨t, ht, he⟩ := exec_effect hinv fun _ => ⟨c, j, l, hm.2, hi⟩
    have hst : Safe t := he.safe (fun h => hclear (h ▸ hi)) hsafe
    obtain ⟨-, -, hmoves⟩ := eachCommandAnswersOnceOnItsPort s t i ht
    exact ⟨t, (runCommand_ok s hi).trans ht, hst, hmoves c j l hm hsafe hst⟩

section Draining
variable {s : State} (h : Draining s)
include h

theorem Draining.nextInput_eq : nextInput s = { rst := false, turn := defaultTurn s, cmd := none } := by
  rw [nextInput, h.inputs]

/-- The end whose port moves has a held command, if any port has (log entry 6). -/
theorem Draining.allIdle (hidle : (portAt s (activePort (edge s))).phase = .idle) (p : PortId) :
    (portAt s p).phase = .idle := by
  obtain ⟨-, -, hphase⟩ := (inv_iff s).1 h.inv
  cases hts : s.cfg.threadSafe with
  | false => exact (hphase p).idle hts
  | true =>
    rw [activePort_of_threadSafe (s := edge s) hts, edge_turn, h.nextInput_eq] at hidle
    have hsides : s.prod.phase = .idle ∧ s.cons.phase = .idle := by
      dsimp only [defaultTurn] at hidle
      split at hidle <;> simp_all [sidePort, portAt]
    cases p with
    | main => exact hphase .main
    | prod => exact hsides.1
    | cons => exact hsides.2

/-- A step that moves a held command leaves the block draining, with less work. -/
theorem Draining.of_moves {c : Command} {j : Nat} {l : Locals} {t : State}
    (hbusy : (portAt s (activePort (edge s))).phase = .busy c j l) (hinv : Inv t) (hsafe : Safe t)
    (hm : Moves c j (edge s) t) : Draining t ∧ totalWork t < totalWork s := by
  have hother : ∀ q, q ≠ activePort (edge s) → (portAt t q).phase = (portAt s q).phase := fun q hq => by
    rw [hm.sameOtherPorts q hq, portAt_edge, endPulse_phase]
  obtain ⟨hcfg, -, -, hin⟩ := hm.sameRest
  refine ⟨⟨hinv, by rw [Legal, hcfg]; exact h.legal, hsafe, by simp [hin, h.inputs], fun q c' j' l' hq => ?_⟩, ?_⟩
  · by_cases hqa : q = activePort (edge s)
    · subst hqa
      obtain hp | ⟨l₁, hp⟩ := hm.phase <;> rw [hp] at hq <;> cases hq
      exact h.noClear _ _ _ _ hbusy
    · exact h.noClear q c' j' l' (hother q hqa ▸ hq)
  · obtain ⟨-, -, hphase⟩ := (inv_iff s).1 h.inv
    have hlt := hm.workLeft_lt (by rw [portAt_edge]; exact hbusy) (microStep_bounds h.inv hbusy).2
    rw [portAt_edge] at hlt
    exact totalWork_lt ((hphase _).ne_main hbusy) hother hlt

/-- Every step of a draining block answers, and does some of the work that is left. -/
theorem Draining.step : ∃ t, step s = .next t ∧ Draining t ∧ totalWork t ≤ totalWork s - 1 := by
  have hr : (nextInput s).rst = false := by rw [h.nextInput_eq]
  have hc : (nextInput s).cmd = none := by rw [h.nextInput_eq]
  cases hp : (portAt s (activePort (edge s))).phase with
  | idle =>
    have hidle := h.allIdle hp
    have hstep := step_of_idle h.legal h.safe (selectAction_nothing hr hc (by simpa using hp))
    refine ⟨edge s, hstep, ⟨inv_edge h.inv, h.legal, h.safe, by simp [h.inputs], by simp [hidle]⟩, ?_⟩
    simp [totalWork, workLeft_idle, hidle]
  | busy c j l =>
    obtain ⟨-, -, hphase⟩ := (inv_iff s).1 h.inv
    have hts := ((phaseOk_busy_iff ((hphase _).ne_main hp) hp).1 (hphase _)).1
    have hm : AtMicro (edge s) c j l := ⟨hts, by simpa using hp⟩
    obtain ⟨t, ht, hst, hmoves⟩ := runCommand_moves (inv_edge h.inv) h.safe hm (h.noClear _ _ _ _ hp)
    have hstep := (step_of_run h.legal h.safe (selectAction_held hr hts hm.2)).trans ht
    obtain ⟨hd, hlt⟩ := h.of_moves hp (everyStepKeepsInv s t h.inv hstep) hst hmoves
    exact ⟨t, hstep, hd, by omega⟩

/-- A draining block with no work left has ended its run (R245). -/
theorem Draining.runEnded (hw : totalWork s = 0) : runEnded s = true := by
  obtain ⟨hprod, hcons⟩ := Nat.add_eq_zero_iff.1 hw
  have hp : s.prod.phase = .idle := idle_of_workLeft (p := .prod) h.inv hprod
  have hc : s.cons.phase = .idle := idle_of_workLeft (p := .cons) h.inv hcons
  have hm : s.main.phase = .idle := ((inv_iff s).1 h.inv).2.2 .main
  simp [Machine.runEnded, h.inputs, hm, hp, hc, show s.modelFault = none from h.safe]

end Draining

/-- As many steps as there is work left end the run. -/
theorem Draining.run {n : Nat} {s : State} (h : Draining s) (hw : totalWork s ≤ n) :
    ∃ t, Host.Core.run core n s = .next t ∧ Machine.runEnded t = true := by
  induction n generalizing s with
  | zero => exact ⟨s, rfl, h.runEnded (Nat.le_zero.1 hw)⟩
  | succ n ih =>
    obtain ⟨t, ht, hd, hle⟩ := h.step
    rw [run_next core n ht]
    exact ih hd (by omega)

/-- Settles O49: each step does some of the work that is left, and there are at most four micro-steps on each port. -/
theorem heldCommandsFinishWithinEightSteps : Obligations.HeldCommandsFinishWithinEightSteps := by
  refine ⟨fun s p c j l hinv => microStep_bounds hinv, fun s hinv hlegal hsafe hin hclear => ?_⟩
  have hprod := workLeft_le_four hinv .prod
  have hcons := workLeft_le_four hinv .cons
  exact Draining.run ⟨hinv, hlegal, hsafe, hin, hclear⟩ (by unfold totalWork; omega)

end Sys2Proof.Machine
end

section
/-! PROOFS. What the answers of the second micro-step say of the buffer (R70). -/

namespace Sys2Proof.Machine

/-- The next slot is `tail` exactly in a buffer of `C - 1` elements (R107, R108). -/
theorem advance_eq_iff_len {cfg : Config} {h t : Nat} (hh : h < cfg.capacity) (ht : t < cfg.capacity) :
    advance cfg h = t ↔ len cfg h t = cfg.capacity - 1 := by
  rw [advance_eq_ite hh]
  unfold len
  split_ifs <;> omega

theorem emptyOutput_eq_true_iff (s : State) : emptyOutput s = true ↔ s.head = s.tail := by
  simp [emptyOutput, isEmpty]

/-- An answer stands in the registers of the port that moves. -/
theorem rsp_respond (s : State) (r : Response) : (portAt (respond r s) (activePort s)).rsp = r := by
  rw [portAt_respond_active]
  rfl

section SecondMicroStep
variable {s t : State} {c : Command} {l : Locals}

/-- The second micro-step of a query or of ITER_CREATE answers from the copy of `head` and from `tail`. -/
theorem loadBoth_s2_next {fin : Nat → Nat → State → State} {h : Nat} (hm : AtMicro s c 2 l) (hl : l.h = some h)
    (ht : loadBoth s fin = .next t) : t = fin h s.tail s := by
  cases (loadBoth_s2 hm.1 hm.2 hl).symm.trans ht
  rfl

/-- What each query, and ITER_CREATE, answers from its copy `h` of `head`. -/
theorem len_s2 {h : Nat} (hm : AtMicro s c 2 l) (hl : l.h = some h) (ha : admitted s.cfg (activePort s) .len = true)
    (ht : exec .len s = .next t) : (portAt t (activePort s)).rsp.count = len s.cfg h s.tail := by
  rw [exec_len ha] at ht
  rw [loadBoth_s2_next hm hl ht, rsp_respond]

theorem isEmpty_s2 {h : Nat} (hm : AtMicro s c 2 l) (hl : l.h = some h)
    (ha : admitted s.cfg (activePort s) .isEmpty = true) (ht : exec .isEmpty s = .next t) :
    (portAt t (activePort s)).rsp.flag = isEmpty h s.tail := by
  rw [exec_isEmpty ha] at ht
  rw [loadBoth_s2_next hm hl ht, rsp_respond]

theorem isFull_s2 {h : Nat} (hm : AtMicro s c 2 l) (hl : l.h = some h)
    (ha : admitted s.cfg (activePort s) .isFull = true) (ht : exec .isFull s = .next t) :
    (portAt t (activePort s)).rsp.flag = isFull s.cfg h s.tail := by
  rw [exec_isFull ha] at ht
  rw [loadBoth_s2_next hm hl ht, rsp_respond]

theorem iterCreate_s2 {h : Nat} {k : CtxNum} (hm : AtMicro s c 2 l) (hl : l.h = some h)
    (ha : admitted s.cfg (activePort s) (.iterCreate k) = true) (ht : exec (.iterCreate k) s = .next t) :
    (portAt t (activePort s)).rsp.count = len s.cfg h s.tail := by
  rw [exec_iterCreate ha] at ht
  rw [loadBoth_s2_next hm hl ht, ← activePort_setIter s k, rsp_respond]

/-- PUSH's second micro-step is refused exactly when the buffer is full (R122). -/
theorem push_s2_answers_iff {v : Nat} (hm : AtMicro s c 2 l) (hn : l.n = some (advance s.cfg s.head))
    (ha : admitted s.cfg (activePort s) (.push v) = true) (ht : exec (.push v) s = .next t) :
    fullOutput s = true ↔ Answers { status := .bufferFull } s t := by
  rw [exec_push ha, if_pos hm.1] at ht
  rw [fullOutput_eq_true_iff]
  by_cases hfull : advance s.cfg s.head = s.tail
  · cases (pushMicro_s2_full hm.2 hn hfull).symm.trans ht
    exact iff_of_true hfull ((SameOutside.refl s).answers _)
  · cases (pushMicro_s2_room hm.2 hn hfull).symm.trans ht
    refine iff_of_false hfull fun hans => ?_
    obtain ⟨hgo, -⟩ := (SameOutside.refl s).goesOn { l with t := some s.tail } hm.2
    simpa [hgo] using congrArg PortState.phase hans.1

/-- POP and PEEK are refused at their second micro-step if their copy of `head` shows no element (R128, R134). -/
theorem empty_s2_answers {i : Instr} (hi : i = .pop ∨ i = .peek) (hm : AtMicro s c 2 l) (hl : l.h = some s.tail)
    (ha : admitted s.cfg (activePort s) i = true) (ht : exec i s = .next t) :
    Answers { status := .bufferEmpty } s t := by
  have hpop : popMicro s = .next t := by
    obtain rfl | rfl := hi
    · rwa [exec_pop ha, if_pos hm.1] at ht
    · rwa [exec_peek ha, if_pos hm.1, peekMicro_eq_popMicro hm.2 (.inr rfl)] at ht
  cases (popMicro_s2_empty hm.2 hl rfl).symm.trans hpop
  exact (SameOutside.refl s).answers _

end SecondMicroStep

section SeenHead
variable {s : State} {h : Nat} (hs : BufferOk s) (hseen : SeenHead s h)
include hs hseen

/-- A copy of `head` that is not ahead of it shows an empty buffer as empty (R70). -/
theorem SeenHead.eq_tail_of_empty (he : s.head = s.tail) : h = s.tail := by
  by_contra hne
  exact hseen.head_ne_tail hs (Ne.symm hne) he

/-- A copy of `head` that is not ahead of it shows only a full buffer as full (R70). -/
theorem SeenHead.full_of_advance_eq (hfull : advance s.cfg h = s.tail) : advance s.cfg s.head = s.tail := by
  obtain ⟨hhead, htail⟩ := hs.indices
  obtain ⟨hh, hle⟩ := hseen
  have hlt := len_lt hhead s.tail
  rw [advance_eq_iff_len hh htail] at hfull
  rw [advance_eq_iff_len hhead htail]
  omega

end SeenHead

/-- Settles O53: PROD's copy of `head` is `head` itself, and CONS's is not ahead of it, since `Inv` says so of the
second micro-step. -/
theorem answersAreExactOnProdAndMayLagOnCons : Obligations.AnswersAreExactOnProdAndMayLagOnCons := by
  intro s t c l i hinv hm hi ht
  obtain ⟨hs, -, hphase⟩ := (inv_iff s).1 hinv
  have ha := (decodeAt_eq_some_iff.1 hi).2
  have hrel : Relies s (activePort s) 2 l i :=
    (InProgress.of_phaseOk (hphase _) hm hi).relies.resolve_left nofun
  have hact := activePort_of_threadSafe hm.1
  refine ⟨fun hturn => ?_, fun hturn => ?_⟩
  · have hp : activePort s = .prod := by rw [hact, hturn]; rfl
    rw [← hp]
    rw [hp] at hrel
    refine ⟨?_, ?_, ?_, ?_⟩
    · rintro rfl
      exact len_s2 hm hrel.2 ha ht
    · rintro rfl
      exact isEmpty_s2 hm hrel.2 ha ht
    · rintro rfl
      exact isFull_s2 hm hrel.2 ha ht
    · rintro v rfl
      exact push_s2_answers_iff hm hrel.2.1 ha ht
  · have hp : activePort s = .cons := by rw [hact, hturn]; rfl
    rw [← hp]
    rw [hp] at hrel
    refine ⟨?_, ?_, ?_, fun hipop hempty => ?_, ?_⟩
    · rintro rfl
      obtain ⟨-, h, hl, hseen⟩ := hrel
      exact (len_s2 hm hl ha ht).trans_le hseen.2
    · rintro rfl hempty
      obtain ⟨-, h, hl, hseen⟩ := hrel
      rw [isEmpty_s2 hm hl ha ht, hseen.eq_tail_of_empty hs ((emptyOutput_eq_true_iff s).1 hempty)]
      simp [isEmpty]
    · rintro rfl hflag
      obtain ⟨-, h, hl, hseen⟩ := hrel
      rw [isFull_s2 hm hl ha ht] at hflag
      exact (fullOutput_eq_true_iff s).2 (hseen.full_of_advance_eq hs (by simpa [isFull] using hflag))
    · have hcopy : ∃ h, l.h = some h ∧ SeenHead s h := by
        obtain rfl | rfl := hipop <;> simpa [Relies, ConsRelies, (emptyOutput_eq_true_iff s).1 hempty] using hrel
      obtain ⟨h, hl, hseen⟩ := hcopy
      rw [hseen.eq_tail_of_empty hs ((emptyOutput_eq_true_iff s).1 hempty)] at hl
      exact empty_s2_answers hipop hm hl ha ht
    · rintro k rfl
      obtain ⟨-, h, hl, hseen⟩ := hrel
      exact (iterCreate_s2 hm hl ha ht).trans_le hseen.2

end Sys2Proof.Machine
end

section
/-! PROOFS. Four turns of one port in a row do what the whole command of THREAD_SAFE = 0 does (R60, R61). -/

namespace Sys2Proof.Machine

/-! ### Turns of one port -/

/-- The next `n` steps of a running block with THREAD_SAFE = 1 are turns of the port of `d`, with nothing presented. -/
structure GivenTurns (s : State) (d : Side) (n : Nat) : Prop where
  legal : Legal s
  safe : Safe s
  threadSafe : s.cfg.threadSafe = true
  inputs : s.inputs = List.replicate n { rst := false, turn := d, cmd := none }

/-- The block has `n` such turns, and the port is at micro-step `j` of the command `i`. -/
structure InTurn (s : State) (d : Side) (n : Nat) (c : Command) (i : Instr) (j : Nat) (l : Locals) : Prop
    extends GivenTurns s d n where
  busy : (portAt s (sidePort d)).phase = .busy c j l
  decoded : decodeAt s.cfg (sidePort d) c = some i

/-- After `n` turns of its port, given from `s` on, the command has answered `r`, once, and left the block `b`. -/
def Finishes (s : State) (d : Side) (n : Nat) (r : Response) (b : State) : Prop :=
  ∃ t, Host.Core.run core n s = .next t ∧ SameBlock b t ∧ (portAt t (sidePort d)).phase = .idle ∧
    (portAt t (sidePort d)).log = (portAt s (sidePort d)).log ++ [r] ∧ Safe t

theorem Finishes.congr {s b b' : State} {d : Side} {n : Nat} {r : Response} (h : Finishes s d n r b')
    (hb : SameBlock b b') : Finishes s d n r b := by
  obtain ⟨t, hrun, hsame, hrest⟩ := h
  exact ⟨t, hrun, hb.trans hsame, hrest⟩

section GivenTurns
variable {s : State} {d : Side} {n : Nat}

theorem GivenTurns.of_sameRest {t : State} (h : GivenTurns s d n) (hrest : SameRest s t) : GivenTurns t d n := by
  obtain ⟨hcfg, hfault, -, hin⟩ := hrest
  exact ⟨by rw [Legal, hcfg]; exact h.legal, hfault.trans h.safe, by rw [hcfg, h.threadSafe], hin.trans h.inputs⟩

theorem GivenTurns.edge (h : GivenTurns s d (n + 1)) : GivenTurns (edge s) d n :=
  ⟨h.legal, h.safe, h.threadSafe, by rw [edge_inputs, h.inputs]; rfl⟩

theorem GivenTurns.activePort_edge (h : GivenTurns s d (n + 1)) : activePort (Machine.edge s) = sidePort d := by
  rw [activePort_of_threadSafe (s := Machine.edge s) h.threadSafe, edge_turn, nextInput_eq_head h.inputs]

/-- An idle port does nothing with its turns. -/
theorem GivenTurns.run_idle (h : GivenTurns s d n) (hidle : (portAt s (sidePort d)).phase = .idle) :
    ∃ t, Host.Core.run core n s = .next t ∧ SameBlock s t ∧ (portAt t (sidePort d)).phase = .idle ∧
      (portAt t (sidePort d)).log = (portAt s (sidePort d)).log ∧ Safe t := by
  induction n generalizing s with
  | zero => exact ⟨s, rfl, ⟨rfl, rfl, rfl, rfl, rfl⟩, hidle, rfl, h.safe⟩
  | succ n ih =>
    have ha : selectAction (nextInput s) (Machine.edge s) = .idle := by
      rw [nextInput_eq_head h.inputs]
      exact selectAction_nothing rfl rfl (by rw [h.activePort_edge, portAt_edge]; exact hidle)
    obtain ⟨t, hrun, hsame, hphase, hlog, hsafe⟩ := ih h.edge (by rw [portAt_edge]; exact hidle)
    refine ⟨t, (run_next core n (step_of_idle h.legal h.safe ha)).trans hrun, (sameBlock_edge s).trans hsame, hphase,
      by rw [hlog, portAt_edge, endPulse_log], hsafe⟩

end GivenTurns

section InTurn
variable {s : State} {d : Side} {n : Nat} {c : Command} {i : Instr} {j : Nat} {l : Locals}
  (h : InTurn s d (n + 1) c i j l)
include h

/-- A turn of a busy port runs the command it holds. -/
theorem InTurn.step_eq : step s = exec i (edge s) :=
  (stepRunsHeldCommand s _ _ _ c j l i h.legal h.safe h.threadSafe h.inputs rfl rfl h.busy
    (decodeAt_eq_some_iff.1 h.decoded).1).1

theorem InTurn.busy_edge : (portAt (edge s) (activePort (edge s))).phase = .busy c j l := by
  rw [h.activePort_edge, portAt_edge]
  exact h.busy

theorem InTurn.admitted : admitted s.cfg (sidePort d) i = true := (decodeAt_eq_some_iff.1 h.decoded).2

theorem InTurn.admitted_edge : Sys2Proof.admitted (edge s).cfg (activePort (edge s)) i = true := by
  rw [h.activePort_edge]
  exact h.admitted

/-- The turn at which the command answers. -/
theorem InTurn.answer {r : Response} {u b : State} (hx : exec i (edge s) = .next (respond r u))
    (hu : SameOutside (edge s) u) (hb : SameBlock b u) : Finishes s d (n + 1) r b := by
  obtain ⟨hport, -, hrest⟩ := hu.answers r
  rw [h.activePort_edge] at hport
  obtain ⟨t, hrun, hsame, hphase, hlog, hsafe⟩ := (h.edge.of_sameRest hrest).run_idle (by rw [hport])
  refine ⟨t, (run_next core n (h.step_eq.trans hx)).trans hrun, (hb.trans (sameBlock_respond u r)).trans hsame, hphase,
    ?_, hsafe⟩
  rw [hlog, hport, portAt_edge, endPulse_log]

/-- A turn at which the command goes on. -/
theorem InTurn.goOn {r : Response} {u b : State} {l' : Locals} (hx : exec i (edge s) = .next (continueWith l' u))
    (hu : SameOutside (edge s) u)
    (hnext : ∀ s', InTurn s' d n c i (j + 1) l' → SameBlock u s' → Finishes s' d n r b) :
    Finishes s d (n + 1) r b := by
  obtain ⟨hport, -, hrest⟩ := hu.goesOn l' h.busy_edge
  rw [h.activePort_edge] at hport
  have hdec : decodeAt (continueWith l' u).cfg (sidePort d) c = some i := by
    rw [hrest.1]
    exact h.decoded
  obtain ⟨t, hrun, hsame, hphase, hlog, hsafe⟩ :=
    hnext (continueWith l' u) ⟨h.edge.of_sameRest hrest, by rw [hport], hdec⟩
      (sameBlock_continueWith u l')
  refine ⟨t, (run_next core n (h.step_eq.trans hx)).trans hrun, hsame, hphase, ?_, hsafe⟩
  rw [hlog, hport, portAt_edge]
  rfl

end InTurn

/-! ### The buffer updates on two states of the same block -/

section SameBlock
variable {s t : State} (h : SameBlock s t)
include h

theorem SameBlock.writeHead (v : Nat) : SameBlock (writeHead v s) (writeHead v t) where
  cfg := h.cfg
  head := h.head
  tail := h.tail
  slots := by simp [h.slots, h.head, h.cfg]
  iters := h.iters

theorem SameBlock.advanceHead : SameBlock (advanceHead s) (advanceHead t) where
  cfg := h.cfg
  head := by simp [h.head, h.cfg]
  tail := h.tail
  slots := h.slots
  iters := h.iters

theorem SameBlock.advanceTail : SameBlock (advanceTail s) (advanceTail t) where
  cfg := h.cfg
  head := h.head
  tail := by simp [h.tail, h.cfg]
  slots := h.slots
  iters := h.iters

theorem SameBlock.clearIndices : SameBlock (clearIndices s) (clearIndices t) where
  cfg := h.cfg
  head := rfl
  tail := rfl
  slots := h.slots
  iters := h.iters

theorem SameBlock.setIter (k : CtxNum) (x : IterCtx) : SameBlock (setIter s k x) (setIter t k x) where
  cfg := h.cfg
  head := h.head
  tail := h.tail
  slots := h.slots
  iters := by simp [h.iters]

end SameBlock

theorem SameOutside.trans {s t u : State} (hst : SameOutside s t) (htu : SameOutside t u) : SameOutside s u := by
  obtain ⟨hcfg, hfault, hturn, hin⟩ := hst.rest
  obtain ⟨hcfg', hfault', hturn', hin'⟩ := htu.rest
  exact ⟨fun p => (htu.ports p).trans (hst.ports p), hcfg'.trans hcfg, hfault'.trans hfault, hturn'.trans hturn,
    hin'.trans hin⟩

section SameOutside
variable (s : State) (v : Nat) (k : CtxNum) (x : IterCtx)

theorem sameOutside_writeHead : SameOutside s (writeHead v s) := ⟨fun p => by simp, rfl, rfl, rfl, rfl⟩
theorem sameOutside_advanceHead : SameOutside s (advanceHead s) := ⟨fun p => by simp, rfl, rfl, rfl, rfl⟩
theorem sameOutside_advanceTail : SameOutside s (advanceTail s) := ⟨fun p => by simp, rfl, rfl, rfl, rfl⟩
theorem sameOutside_clearIndices : SameOutside s (clearIndices s) := ⟨fun p => by simp, rfl, rfl, rfl, rfl⟩
theorem sameOutside_setIter : SameOutside s (setIter s k x) := ⟨fun p => by simp, rfl, rfl, rfl, rfl⟩

end SameOutside

/-! ### Each command in both forms -/

/-- The same block with THREAD_SAFE = 0. -/
def asWhole (s : State) : State := { s with cfg := { s.cfg with threadSafe := false } }

/-- A command a port runs when THREAD_SAFE = 1, MAIN runs when THREAD_SAFE = 0 (R86). -/
theorem admitted_asWhole {s : State} {p : PortId} {i : Instr} (ha : admitted s.cfg p i = true) :
    admitted (asWhole s).cfg (activePort (asWhole s)) i = true := by
  rw [activePort_of_whole (s := asWhole s) rfl]
  obtain ⟨-, hc⟩ := (admitted_iff ..).1 ha
  exact (admitted_iff ..).2 ⟨by cases i <;> rfl, by cases i <;> exact hc⟩

/-- THREAD_SAFE = 1 goes with OVERWRITE_ON_FULL = 0 (R5). -/
theorem overwriteOnFull_of_legal {cfg : Config} (h : badConfig cfg = none) (hts : cfg.threadSafe = true) :
    cfg.overwriteOnFull = false := by
  cases hov : cfg.overwriteOnFull with
  | false => rfl
  | true =>
    simp only [badConfig, hts, hov, and_self, if_true] at h
    split_ifs at h

/-- A context with something left names a written slot (R30, R37). -/
theorem BufferOk.exists_next {s : State} (hs : BufferOk s) {k : CtxNum} (hrem : (iterAt s k).remaining ≠ 0) :
    (iterAt s k).cursor < s.cfg.capacity ∧ ∃ v, slotAt s.slots (iterAt s k).cursor = some v := by
  have hmem := iterAt_mem hrem
  obtain ⟨hcur, -⟩ := hs.contexts.2 _ hmem
  have hsome := hs.snapshots _ hmem 0 (Nat.pos_of_ne_zero hrem)
  rw [Nat.add_zero, Nat.mod_eq_of_lt hcur] at hsome
  exact ⟨hcur, Option.isSome_iff_exists.1 hsome⟩

/-- The whole command and four turns of its port answer the same and leave the same block. -/
def Agrees (s : State) (d : Side) (i : Instr) : Prop :=
  ∃ r b, SameOutside s b ∧ exec i (asWhole s) = .next (respond r (asWhole b)) ∧ Finishes s d 4 r b

section Commands
variable {s : State} {d : Side} {c : Command} {l : Locals}

theorem nop_agrees (h : InTurn s d 4 c .nop 1 l) : Agrees s d .nop :=
  ⟨_, s, .refl s, exec_nop, h.answer exec_nop (.refl _) (sameBlock_edge s)⟩

theorem clear_agrees (h : InTurn s d 4 c .clear 1 l) (hother : inFlight (portAt s (otherPort (sidePort d))) = false) :
    Agrees s d .clear := by
  have hrace : inFlight (portAt (edge s) (otherPort (activePort (edge s)))) = false := by
    rw [h.activePort_edge, portAt_edge]
    exact hother
  exact ⟨_, clearIndices s, sameOutside_clearIndices s, exec_clear rfl,
    h.answer (exec_clear (Bool.and_eq_false_iff.2 (.inr hrace))) (sameOutside_clearIndices _)
      (sameBlock_edge s).clearIndices⟩

/-! PUSH (R121, R122). -/

section Push
variable {v n : Nat}

/-- PUSH's turns are its micro-steps. -/
theorem InTurn.exec_push {j : Nat} (h : InTurn s d (n + 1) c (.push v) j l) :
    exec (.push v) (edge s) = pushMicro v (edge s) :=
  (Machine.exec_push h.admitted_edge).trans (if_pos h.threadSafe)

theorem push_finishes_from_s4 (h : InTurn s d (n + 1) c (.push v) 4 l) (hn : l.n = some (advance s.cfg s.head)) :
    Finishes s d (n + 1) { status := .ok } (advanceHead s) :=
  h.answer (h.exec_push.trans (pushMicro_s4 h.busy_edge hn)) (sameOutside_advanceHead _) (sameBlock_edge s).advanceHead

theorem push_finishes_from_s3 (h : InTurn s d (n + 2) c (.push v) 3 l) (hh : s.head < s.cfg.capacity)
    (hl : l.h = some s.head) (hn : l.n = some (advance s.cfg s.head)) :
    Finishes s d (n + 2) { status := .ok } (advanceHead (writeHead v s)) := by
  refine h.goOn (h.exec_push.trans (pushMicro_s3 h.busy_edge hl hh)) (sameOutside_writeHead _ v) fun s' h' hsame => ?_
  have hblock := ((sameBlock_edge s).writeHead v).trans hsame
  exact (push_finishes_from_s4 h' (by rw [hblock.cfg, hblock.head]; exact hn)).congr hblock.advanceHead

theorem push_finishes_from_s2 (h : InTurn s d (n + 3) c (.push v) 2 l) (hh : s.head < s.cfg.capacity)
    (hl : l.h = some s.head) (hn : l.n = some (advance s.cfg s.head)) (hfree : advance s.cfg s.head ≠ s.tail) :
    Finishes s d (n + 3) { status := .ok } (advanceHead (writeHead v s)) := by
  refine h.goOn (h.exec_push.trans (pushMicro_s2_room h.busy_edge hn hfree)) (.refl _) fun s' h' hsame => ?_
  have hblock := (sameBlock_edge s).trans hsame
  refine (push_finishes_from_s3 h' ?_ ?_ ?_).congr (hblock.writeHead v).advanceHead
  · rwa [hblock.head, hblock.cfg]
  · rw [hblock.head]; exact hl
  · rw [hblock.cfg, hblock.head]; exact hn

theorem push_full_finishes_from_s2 (h : InTurn s d (n + 1) c (.push v) 2 l) (hn : l.n = some (advance s.cfg s.head))
    (hfull : advance s.cfg s.head = s.tail) : Finishes s d (n + 1) { status := .bufferFull } s :=
  h.answer (h.exec_push.trans (pushMicro_s2_full h.busy_edge hn hfull)) (.refl _) (sameBlock_edge s)

theorem push_agrees (hs : BufferOk s) (h : InTurn s d 4 c (.push v) 1 l) : Agrees s d (.push v) := by
  have hwhole := exec_push_of_whole (s := asWhole s) rfl v
  have hs1 := h.exec_push.trans (pushMicro_s1 h.busy_edge)
  by_cases hfull : advance s.cfg s.head = s.tail
  · have hov := overwriteOnFull_of_legal h.legal h.threadSafe
    refine ⟨_, s, .refl s, hwhole.trans (pushWhole_full hfull hov), h.goOn hs1 (.refl _) fun s' h' hsame => ?_⟩
    have hblock := (sameBlock_edge s).trans hsame
    refine (push_full_finishes_from_s2 h' ?_ ?_).congr hblock
    · rw [hblock.cfg, hblock.head]; rfl
    · rwa [hblock.cfg, hblock.head, hblock.tail]
  · refine ⟨_, advanceHead (writeHead v s), (sameOutside_writeHead s v).trans (sameOutside_advanceHead _),
      hwhole.trans (pushWhole_room hs.indices.1 hfull), h.goOn hs1 (.refl _) fun s' h' hsame => ?_⟩
    have hblock := (sameBlock_edge s).trans hsame
    refine (push_finishes_from_s2 h' ?_ ?_ ?_ ?_).congr (hblock.writeHead v).advanceHead
    · rw [hblock.head, hblock.cfg]; exact hs.indices.1
    · rw [hblock.head]; rfl
    · rw [hblock.cfg, hblock.head]; rfl
    · rwa [hblock.cfg, hblock.head, hblock.tail]

end Push

/-! POP and PEEK (R127, R128, R133, R134). -/

section Read
variable {v n : Nat} {i : Instr}

/-- POP's turns are its micro-steps, and at s1 and s2 PEEK's are too. -/
theorem InTurn.exec_pop {j : Nat} (h : InTurn s d (n + 1) c .pop j l) : exec .pop (edge s) = popMicro (edge s) :=
  (Machine.exec_pop h.admitted_edge).trans (if_pos h.threadSafe)

theorem InTurn.exec_peek {j : Nat} (h : InTurn s d (n + 1) c .peek j l) : exec .peek (edge s) = peekMicro (edge s) :=
  (Machine.exec_peek h.admitted_edge).trans (if_pos h.threadSafe)

theorem InTurn.exec_read {j : Nat} (h : InTurn s d (n + 1) c i j l) (hi : i = .pop ∨ i = .peek) (hj : j = 1 ∨ j = 2) :
    exec i (edge s) = popMicro (edge s) := by
  obtain rfl | rfl := hi
  · exact h.exec_pop
  · rw [h.exec_peek, peekMicro_eq_popMicro h.busy_edge hj]

/-- Of an empty buffer both are refused at s2. -/
theorem read_empty_finishes (hi : i = .pop ∨ i = .peek) (h : InTurn s d (n + 2) c i 1 l) (he : s.head = s.tail) :
    Finishes s d (n + 2) { status := .bufferEmpty } s := by
  refine h.goOn ((h.exec_read hi (.inl rfl)).trans (popMicro_s1 h.busy_edge)) (.refl _) fun s' h' hsame => ?_
  have hblock := (sameBlock_edge s).trans hsame
  refine h'.answer ((h'.exec_read hi (.inr rfl)).trans (popMicro_s2_empty h'.busy_edge rfl ?_)) (.refl _)
    (hblock.trans (sameBlock_edge s'))
  exact hblock.tail.trans he.symm

/-- Of a buffer with an element both go on to s3, with `tail` in their locals. -/
theorem read_finishes (hi : i = .pop ∨ i = .peek) (h : InTurn s d (n + 2) c i 1 l) (hne : s.head ≠ s.tail)
    {r : Response} {b : State}
    (hnext : ∀ s' l', InTurn s' d n c i 3 l' → SameBlock s s' → l'.t = some s.tail → Finishes s' d n r b) :
    Finishes s d (n + 2) r b := by
  refine h.goOn ((h.exec_read hi (.inl rfl)).trans (popMicro_s1 h.busy_edge)) (.refl _) fun s' h' hsame => ?_
  have hblock := (sameBlock_edge s).trans hsame
  have hne' : (edge s').tail ≠ (edge s).head := fun he => hne (he.symm.trans hblock.tail)
  refine h'.goOn ((h'.exec_read hi (.inr rfl)).trans (popMicro_s2_some h'.busy_edge rfl hne')) (.refl _)
    fun s'' h'' hsame' => hnext s'' _ h'' ((hblock.trans (sameBlock_edge s')).trans hsame') (congrArg some hblock.tail)

theorem peek_finishes_from_s3 (h : InTurn s d (n + 1) c .peek 3 l) (hl : l.t = some s.tail)
    (ht : s.tail < s.cfg.capacity) (hv : slotAt s.slots s.tail = some v) :
    Finishes s d (n + 1) { status := .ok, data := v } s :=
  h.answer (h.exec_peek.trans (peekMicro_s3 h.busy_edge hl ht hv)) (.refl _) (sameBlock_edge s)

theorem pop_finishes_from_s3 (h : InTurn s d (n + 2) c .pop 3 l) (hl : l.t = some s.tail)
    (ht : s.tail < s.cfg.capacity) (hv : slotAt s.slots s.tail = some v) :
    Finishes s d (n + 2) { status := .ok, data := v } (advanceTail s) := by
  refine h.goOn (h.exec_pop.trans (popMicro_s3 h.busy_edge hl ht hv)) (.refl _) fun s' h' hsame => ?_
  have hblock := (sameBlock_edge s).trans hsame
  exact h'.answer (h'.exec_pop.trans (popMicro_s4 h'.busy_edge (hl.trans (congrArg some hblock.tail.symm)) rfl))
    (sameOutside_advanceTail _) (hblock.trans (sameBlock_edge s')).advanceTail

theorem pop_agrees (hs : BufferOk s) (h : InTurn s d 4 c .pop 1 l) : Agrees s d .pop := by
  have hwhole := exec_pop_of_whole (s := asWhole s) rfl
  by_cases he : s.head = s.tail
  · exact ⟨_, s, .refl s, hwhole.trans (popWhole_empty he), read_empty_finishes (.inl rfl) h he⟩
  · obtain ⟨v, hv⟩ := hs.exists_oldest he
    refine ⟨_, advanceTail s, sameOutside_advanceTail s, hwhole.trans (popWhole_value hs.indices.2 he hv),
      read_finishes (.inl rfl) h he fun s' l' h' hblock hl => ?_⟩
    refine (pop_finishes_from_s3 h' ?_ ?_ ?_).congr hblock.advanceTail
    · rw [hblock.tail, hl]
    · rw [hblock.tail, hblock.cfg]; exact hs.indices.2
    · rw [hblock.slots, hblock.tail, hv]

theorem peek_agrees (hs : BufferOk s) (h : InTurn s d 4 c .peek 1 l) : Agrees s d .peek := by
  have hwhole := exec_peek_of_whole (s := asWhole s) rfl
  by_cases he : s.head = s.tail
  · exact ⟨_, s, .refl s, hwhole.trans (peekWhole_empty he), read_empty_finishes (.inr rfl) h he⟩
  · obtain ⟨v, hv⟩ := hs.exists_oldest he
    refine ⟨_, s, .refl s, hwhole.trans (peekWhole_value hs.indices.2 he hv),
      read_finishes (.inr rfl) h he fun s' l' h' hblock hl => ?_⟩
    refine (peek_finishes_from_s3 h' ?_ ?_ ?_).congr hblock
    · rw [hblock.tail, hl]
    · rw [hblock.tail, hblock.cfg]; exact hs.indices.2
    · rw [hblock.slots, hblock.tail, hv]

end Read

/-! The queries and the iterator commands (R151, R155, R159, R172, R177). -/

/-- A command of the shape `loadBoth` ends at s2, from the two indices the block had at s1. -/
theorem loadBoth_finishes {n : Nat} {i : Instr} {r : Response} {b : State} {fin : Nat → Nat → State → State}
    (h : InTurn s d (n + 2) c i 1 l)
    (hexec : ∀ u : State, admitted u.cfg (activePort u) i = true → exec i u = loadBoth u fin)
    (hfin : ∀ u, SameBlock s u → ∃ u', fin s.head s.tail u = respond r u' ∧ SameOutside u u' ∧ SameBlock b u') :
    Finishes s d (n + 2) r b := by
  refine h.goOn ((hexec _ h.admitted_edge).trans (loadBoth_s1 h.threadSafe h.busy_edge)) (.refl _)
    fun s' h' hsame => ?_
  have hblock := ((sameBlock_edge s).trans hsame).trans (sameBlock_edge s')
  obtain ⟨u', hu', hout, hb⟩ := hfin (edge s') hblock
  have hs2 := loadBoth_s2 (s := edge s') (fin := fin) h'.threadSafe h'.busy_edge rfl
  refine h'.answer ((hexec _ h'.admitted_edge).trans (hs2.trans ?_)) hout hb
  rw [hblock.tail]
  exact congrArg _ hu'

theorem isEmpty_agrees (h : InTurn s d 4 c .isEmpty 1 l) : Agrees s d .isEmpty :=
  ⟨_, s, .refl s, (exec_isEmpty rfl).trans (loadBoth_whole rfl),
    loadBoth_finishes h (fun _ => exec_isEmpty) fun u hu => ⟨u, rfl, .refl u, hu⟩⟩

theorem isFull_agrees (h : InTurn s d 4 c .isFull 1 l) : Agrees s d .isFull :=
  ⟨_, s, .refl s, (exec_isFull rfl).trans (loadBoth_whole rfl),
    loadBoth_finishes h (fun _ => exec_isFull) fun u hu => ⟨u, by rw [hu.cfg]; rfl, .refl u, hu⟩⟩

theorem len_agrees (h : InTurn s d 4 c .len 1 l) : Agrees s d .len :=
  ⟨_, s, .refl s, (exec_len rfl).trans (loadBoth_whole rfl),
    loadBoth_finishes h (fun _ => exec_len) fun u hu => ⟨u, by rw [hu.cfg]; rfl, .refl u, hu⟩⟩

theorem iterCreate_agrees {k : CtxNum} (h : InTurn s d 4 c (.iterCreate k) 1 l) : Agrees s d (.iterCreate k) :=
  ⟨{ status := .ok, count := len s.cfg s.head s.tail },
    setIter s k { cursor := s.tail, remaining := len s.cfg s.head s.tail }, sameOutside_setIter ..,
    (exec_iterCreate (admitted_asWhole h.admitted)).trans (loadBoth_whole rfl),
    loadBoth_finishes h (fun _ => exec_iterCreate) fun u hu =>
      ⟨setIter u k _, by rw [hu.cfg], sameOutside_setIter .., hu.setIter k _⟩⟩

theorem iterNext_agrees {k : CtxNum} (hs : BufferOk s) (h : InTurn s d 4 c (.iterNext k) 1 l) :
    Agrees s d (.iterNext k) := by
  have ha := admitted_asWhole h.admitted
  by_cases hrem : (iterAt s k).remaining = 0
  · exact ⟨_, s, .refl s, exec_iterNext_done ha hrem,
      h.answer (exec_iterNext_done h.admitted_edge hrem) (.refl _) (sameBlock_edge s)⟩
  · obtain ⟨hcur, v, hv⟩ := hs.exists_next hrem
    exact ⟨_, setIter s k _, sameOutside_setIter .., exec_iterNext_value ha hrem hcur hv,
      h.answer (exec_iterNext_value h.admitted_edge hrem hcur hv) (sameOutside_setIter ..)
        ((sameBlock_edge s).setIter k _)⟩

/-- Every command agrees with its whole form. -/
theorem command_agrees {i : Instr} (hs : BufferOk s) (h : InTurn s d 4 c i 1 l)
    (hother : inFlight (portAt s (otherPort (sidePort d))) = false) : Agrees s d i := by
  cases i with
  | nop => exact nop_agrees h
  | push v => exact push_agrees hs h
  | pop => exact pop_agrees hs h
  | peek => exact peek_agrees hs h
  | clear => exact clear_agrees h hother
  | isEmpty => exact isEmpty_agrees h
  | isFull => exact isFull_agrees h
  | len => exact len_agrees h
  | iterCreate k => exact iterCreate_agrees h
  | iterNext k => exact iterNext_agrees hs h

end Commands

/-- Settles O54: the two forms of each command agree, and the whole one answers on MAIN. -/
theorem uninterruptedMicroStepsEqualWholeStep : Obligations.UninterruptedMicroStepsEqualWholeStep := by
  intro s d p c l i hinv hlegal hsafe hts hp hbusy hdec hother hin
  obtain rfl : p = sidePort d := hp
  obtain ⟨r, b, hout, hwhole, t, hrun, hsame, hphase, hlog, hsafe'⟩ :=
    command_agrees ((inv_iff s).1 hinv).1 ⟨⟨hlegal, hsafe, hts, hin⟩, hbusy, hdec⟩ hother
  refine ⟨t, respond r (asWhole b), r, hrun, hwhole, ?_, ?_, fun a => ?_, ?_, hphase, hlog, ?_, hsafe'⟩
  · rw [hsame.head, respond_head]; rfl
  · rw [hsame.tail, respond_tail]; rfl
  · rw [hsame.slots, respond_slots]; rfl
  · rw [hsame.iters, respond_iters]; rfl
  · have hport := portAt_respond_active (asWhole b) r
    rw [activePort_of_whole (s := asWhole b) rfl] at hport
    have hmain : b.main = s.main := hout.ports .main
    rw [← hmain]
    exact congrArg PortState.log hport

end Sys2Proof.Machine
end

section
/-! PROOFS. The decoder and the encoder (30_encoding.md): what a command word decodes to, the ports that run it, and
what an ILLEGAL command meets. -/

namespace Sys2Proof.Machine

/-! ### What a word decodes to -/

/-- The operands that `i` reads stand in the command `c` (R84, R85). -/
def HoldsOperands (c : Command) (i : Instr) : Prop :=
  match i with
  | .push v => c.data = v
  | .iterCreate k => iterField c.cmd = k
  | .iterNext k => iterField c.cmd = k
  | .nop => True
  | .pop => True
  | .peek => True
  | .clear => True
  | .isEmpty => True
  | .isFull => True
  | .len => True

/-- A command decodes to `i` exactly if it holds the opcode of `i` and the operands `i` reads (R82). -/
theorem decode_eq_ok_iff {c : Command} {i : Instr} :
    decode c = .ok i ↔ opField c.cmd = opcode i ∧ HoldsOperands c i := by
  constructor
  · intro h
    unfold decode at h
    split at h <;> cases h <;> exact ⟨BitVec.eq_of_toNat_eq ‹_›, by simp [HoldsOperands]⟩
  · rintro ⟨hop, hargs⟩
    cases i with
    | push v | iterCreate k | iterNext k =>
      obtain rfl := hargs
      simp [decode, hop, opcode]
    | nop | pop | peek | clear | isEmpty | isFull | len => simp [decode, hop, opcode]

/-- A command is refused exactly if its `op` is reserved, and the refusal names that `op` (R83). -/
theorem decode_eq_error_iff {c : Command} {e : DecodeError} :
    decode c = .error e ↔ 0xA ≤ (opField c.cmd).toNat ∧ e = .reservedOp (opField c.cmd) := by
  unfold decode
  constructor
  · intro h
    split at h <;> cases h
    refine ⟨?_, rfl⟩
    simp only [imp_false] at *
    omega
  · rintro ⟨hop, rfl⟩
    split
    case h_11 => rfl
    all_goals omega

/-- The encoding of every command holds its opcode and its operands (R82, R91). -/
theorem encodedFields (i : Instr) : Laws.EncodedFields.Statement i := by
  cases i with
  | nop => exact Laws.EncodedFields.nop
  | push v => exact Laws.EncodedFields.push v
  | pop => exact Laws.EncodedFields.pop
  | peek => exact Laws.EncodedFields.peek
  | clear => exact Laws.EncodedFields.clear
  | isEmpty => exact Laws.EncodedFields.isEmpty
  | isFull => exact Laws.EncodedFields.isFull
  | len => exact Laws.EncodedFields.len
  | iterCreate k => exact Laws.EncodedFields.iterCreate k
  | iterNext k => exact Laws.EncodedFields.iterNext k

/-- The operands a command reads are among those its encoding holds. -/
theorem holdsOperands_of_fields {c : Command} {i : Instr} (hiter : iterField c.cmd = iterOperand i)
    (hdata : c.data = dataOperand i) : HoldsOperands c i := by
  cases i with
  | push v => exact hdata
  | iterCreate k | iterNext k => exact hiter
  | nop | pop | peek | clear | isEmpty | isFull | len => trivial

/-- Decoding an encoding gives the command back (R92). -/
theorem decode_encode (i : Instr) : decode (encode i) = .ok i := by
  obtain ⟨hop, hiter, hdata⟩ := encodedFields i
  exact decode_eq_ok_iff.2 ⟨hop, holdsOperands_of_fields hiter hdata⟩

/-- A port's whole decode gives a command back from its encoding exactly if the port runs it (R87, R92). -/
theorem decodeAt_encode_iff (cfg : Config) (p : PortId) (i : Instr) :
    admitted cfg p i = true ↔ decodeAt cfg p (encode i) = some i := by
  simp [decodeAt_eq_some_iff, decode_encode]

/-- Settles O10: a command is its opcode and the operands it reads, and an encoding holds both. -/
theorem decodeAndEncodeAgree : Obligations.DecodeAndEncodeAgree :=
  ⟨decode_encode, decodeAt_encode_iff, fun _ _ => decode_eq_ok_iff⟩

/-- Settles O11: each word is evaluated. -/
theorem writtenOutWordsDecode : Obligations.WrittenOutWordsDecode :=
  ⟨rfl, rfl, rfl, rfl, rfl, rfl, rfl⟩

/-- Settles O16: each line is evaluated. -/
theorem assemblerLinesEncode : Obligations.AssemblerLinesEncode := by
  unfold Obligations.AssemblerLinesEncode
  decide

/-! ### What an ILLEGAL command meets -/

/-- The answer is `respond(ILLEGAL)`, with no other effect on the buffer, the contexts or another port (R87). -/
def AnswersIllegal (s : State) (r : Result) : Prop :=
  ∃ t, r = .next t ∧ Answers { status := .illegal } s t ∧ SameBuffer s t

theorem SameBlock.sameBuffer {s t : State} (h : SameBlock s t) : SameBuffer s t :=
  ⟨h.head, h.tail, fun a => by rw [h.slots], h.iters⟩

theorem answersIllegal_respondIllegal (s : State) : AnswersIllegal s (.next (respondIllegal s)) :=
  ⟨_, rfl, (SameOutside.refl s).answers _, (sameBlock_respond s _).sameBuffer⟩

/-- A command the port does not run (R86, R84). -/
theorem exec_answersIllegal {s : State} {i : Instr} (h : admitted s.cfg (activePort s) i = false) :
    AnswersIllegal s (exec i s) := by
  rw [exec_of_not_admitted h]
  exact answersIllegal_respondIllegal s

/-- A command with a reserved `op` (R83). -/
theorem runCommand_answersIllegal {s : State} {c : Command} {e : DecodeError} (h : decode c = .error e) :
    AnswersIllegal s (runCommand c s) := by
  rw [runCommand_error s h]
  exact answersIllegal_respondIllegal s

theorem admitted_eq_false_iff {cfg : Config} {p : PortId} {i : Instr} :
    admitted cfg p i = false ↔ permitted p i = false ∨ contextExists cfg i = false := Bool.and_eq_false_iff

/-- Settles O12: a reserved `op` is what the decoder refuses. -/
theorem reservedOpIsAnsweredIllegal : Obligations.ReservedOpIsAnsweredIllegal := by
  intro s c hop
  have hdec := decode_eq_error_iff.2 ⟨hop, rfl⟩
  exact ⟨hdec, runCommand_answersIllegal hdec⟩

/-! The port permission table, port by port (R86). -/

theorem permitted_main (i : Instr) : permitted .main i = true := by cases i <;> rfl

theorem permitted_prod_eq_false_iff (i : Instr) :
    permitted .prod i = false ↔ opcode i ∈ [0x2#4, 0x3#4, 0x8#4, 0x9#4] := by
  cases i <;> simp [permitted, opcode]

theorem permitted_cons_eq_false_iff (i : Instr) : permitted .cons i = false ↔ opcode i = 0x1#4 := by
  cases i <;> simp [permitted, opcode]

/-- Settles O13: the table, and a command that it refuses is not admitted. -/
theorem portPermissionTable : Obligations.PortPermissionTable :=
  ⟨fun i => ⟨permitted_main i, permitted_prod_eq_false_iff i, permitted_cons_eq_false_iff i⟩,
    fun _ _ h => exec_answersIllegal (admitted_eq_false_iff.2 (.inl h))⟩

/-! The context number (R84). -/

theorem toNat_iterField (w : CmdWord) : (iterField w).toNat = w.toNat / 16 := by
  have hw := w.isLt
  simp only [iterField, BitVec.extractLsb'_toNat, Nat.shiftRight_eq_div_pow]
  omega

/-- A command that reads no context number holds its operands whatever the `iter` field is. -/
theorem HoldsOperands.of_data_eq {c c' : Command} {i : Instr} (h : HoldsOperands c i) (hdata : c.data = c'.data)
    (hcreate : opcode i ≠ 0x8#4) (hnext : opcode i ≠ 0x9#4) : HoldsOperands c' i := by
  cases i with
  | push v => exact hdata.symm.trans h
  | iterCreate k => exact absurd rfl hcreate
  | iterNext k => exact absurd rfl hnext
  | nop | pop | peek | clear | isEmpty | isFull | len => trivial

/-- No `op` but those of the iterator commands looks at the `iter` field (R84). -/
theorem decode_congr_of_ne_iterator {c c' : Command} (hop : opField c.cmd = opField c'.cmd) (hdata : c.data = c'.data)
    (hcreate : opField c.cmd ≠ 0x8#4) (hnext : opField c.cmd ≠ 0x9#4) : decode c = decode c' := by
  cases h : decode c with
  | error e => exact (decode_eq_error_iff.2 (hop ▸ decode_eq_error_iff.1 h)).symm
  | ok i =>
    obtain ⟨hi, hargs⟩ := decode_eq_ok_iff.1 h
    rw [hi] at hcreate hnext
    exact (decode_eq_ok_iff.2 ⟨hop.symm.trans hi, hargs.of_data_eq hdata hcreate hnext⟩).symm

/-- A decoded command names an absent context exactly if it is an iterator command whose `iter` field is not below
N_ITER (R84). -/
theorem contextExists_eq_false_iff {cfg : Config} {c : Command} {i : Instr} (h : decode c = .ok i) :
    contextExists cfg i = false ↔
      (opField c.cmd = 0x8#4 ∨ opField c.cmd = 0x9#4) ∧ cfg.nIter ≤ (iterField c.cmd).toNat := by
  obtain ⟨hop, hargs⟩ := decode_eq_ok_iff.1 h
  rw [hop]
  cases i with
  | iterCreate k | iterNext k =>
    obtain rfl := hargs
    simp [contextExists, opcode]
  | nop | push | pop | peek | clear | isEmpty | isFull | len => simp [contextExists, opcode]

/-- Settles O14: an absent context is not admitted, on any port. -/
theorem contextNumberField : Obligations.ContextNumberField := by
  refine ⟨fun c => toNat_iterField c.cmd, fun s k hk => ?_, fun _ _ => decode_congr_of_ne_iterator⟩
  have habsent : decide (k.toNat < s.cfg.nIter) = false := decide_eq_false (by omega)
  exact ⟨exec_answersIllegal (admitted_eq_false_iff.2 (.inr habsent)),
    exec_answersIllegal (admitted_eq_false_iff.2 (.inr habsent))⟩

/-- A command is ILLEGAL on a port exactly if its `op` is reserved or the port does not run what it decodes to (R87). -/
theorem decodeAt_eq_none_iff {cfg : Config} {p : PortId} {c : Command} :
    decodeAt cfg p c = none ↔ (∃ e, decode c = .error e) ∨ ∃ i, decode c = .ok i ∧ admitted cfg p i = false := by
  rw [Option.eq_none_iff_forall_ne_some]
  cases h : decode c with
  | error e => simp [decodeAt_eq_some_iff, h]
  | ok i => simp [decodeAt_eq_some_iff, h]

/-- Settles O15: the three reasons of R87, and what either kind of command then runs. -/
theorem decodeIsTotalAndIllegalHasNoEffect : Obligations.DecodeIsTotalAndIllegalHasNoEffect := by
  intro s c
  refine ⟨?_, fun h => ?_, fun i h => ?_⟩
  · rw [decodeAt_eq_none_iff]
    refine or_congr (by simp [decode_eq_error_iff]) (exists_congr fun i => and_congr_right fun hi => ?_)
    rw [admitted_eq_false_iff, contextExists_eq_false_iff hi]
  · obtain ⟨e, he⟩ | ⟨i, hi, ha⟩ := decodeAt_eq_none_iff.1 h
    · exact runCommand_answersIllegal he
    · rw [runCommand_ok s hi]
      exact exec_answersIllegal ha
  · have hi := (decodeAt_eq_some_iff.1 h).1
    exact ⟨hi, runCommand_ok s hi⟩

end Sys2Proof.Machine
end

section
/-! PROOFS. The handshake: `cmd_ready`, and the acceptance of a command (R94, R232). -/

namespace Sys2Proof.Machine

/-- `cmd_ready` reads the port's phase and the level of `rst`, and nothing else (R94). -/
theorem cmdReady_eq_true_iff {s : State} {p : PortId} :
    cmdReady s p = true ↔ (portAt s p).phase = .idle ∧ (nextInput s).rst = false := by
  simp [cmdReady]

/-- Settles O20: the level of `rst` is that of the first listed input, and no port lies in the buffer. -/
theorem cmdReadyIsIdleAndNotReset : Obligations.CmdReadyIsIdleAndNotReset := by
  refine ⟨fun s p x rest hin => ?_, fun s p h t m => ?_⟩
  · rw [cmdReady_eq_true_iff, nextInput_eq_head hin]
  · cases p <;> rfl

/-- An idle port takes a command presented on it when THREAD_SAFE = 1 (R61, R94). -/
theorem selectAction_accept {x : Input} {s : State} {c : Command} (hr : x.rst = false) (hts : s.cfg.threadSafe = true)
    (hidle : (portAt s (activePort s)).phase = .idle) (hc : x.cmd = some c) : selectAction x s = .accept c := by
  simp [selectAction, hr, hts, hidle, hc]

/-- A step that accepts a command is the acceptance, in the state after the edge. -/
theorem step_of_accept {s : State} {c : Command} (hlegal : Legal s) (hsafe : Safe s)
    (ha : selectAction (nextInput s) (edge s) = .accept c) :
    step s = .next (acceptOn (activePort (edge s)) c (edge s)) := by
  simp [step_eq_takeStep, takeStep, hlegal, ha, hsafe]

/-- Settles O19: the port that moves is that of the input's end, it is idle, and an acceptance writes that port only. -/
theorem readyPortAcceptsCommand : Obligations.ReadyPortAcceptsCommand := by
  intro s x rest p c hlegal hsafe hts hin hc hp hready hdata
  obtain ⟨hidle, hr⟩ := cmdReady_eq_true_iff.1 hready
  have hact : activePort (edge s) = p := by
    rw [activePort_of_threadSafe (s := edge s) hts, edge_turn, nextInput_eq_head hin, hp]
    rfl
  have ha : selectAction (nextInput s) (edge s) = .accept c :=
    selectAction_accept hr hts (by rw [hact, portAt_edge]; exact hidle) (by rw [nextInput_eq_head hin, hc])
  have hstep := step_of_accept hlegal hsafe ha
  rw [hact, acceptOn, edge_cfg, sample_of_lt hdata, portAt_edge] at hstep
  refine ⟨_, hstep, portAt_setPort_same .., fun q hq => ?_, ?_, setPort_cfg .., ?_, ?_⟩
  · rw [portAt_setPort_other _ _ _ _ hq, portAt_edge]
    rfl
  · exact (SameBlock.trans (sameBlock_edge s) (sameBlock_setPort ..)).sameBuffer
  · rw [setPort_modelFault, edge_modelFault, hsafe]
  · rw [setPort_inputs, edge_inputs, hin, List.tail_cons]

end Sys2Proof.Machine
end

section
/-! PROOFS. The responses each command can answer with (R88 to R90). -/

namespace Sys2Proof.Machine

/-- The responses that the table of R88 lists for a command that the port runs. -/
def Listed (i : Instr) (r : Response) : Prop :=
  match i with
  | .nop => r = { status := .ok }
  | .push _ => r = { status := .ok } ∨ r = { status := .bufferFull }
  | .pop => (∃ v, r = { status := .ok, data := v }) ∨ r = { status := .bufferEmpty }
  | .peek => (∃ v, r = { status := .ok, data := v }) ∨ r = { status := .bufferEmpty }
  | .clear => r = { status := .ok }
  | .isEmpty => ∃ b, r = { status := .ok, flag := b }
  | .isFull => ∃ b, r = { status := .ok, flag := b }
  | .len => ∃ n, r = { status := .ok, count := n }
  | .iterCreate _ => ∃ n, r = { status := .ok, count := n }
  | .iterNext _ => (∃ v, r = { status := .ok, data := v }) ∨ r = { status := .iterDone }

/-- From `s` to `t` the port that moves logged nothing, or one response that is listed for `i`. -/
def LogsListed (s : State) (i : Instr) (t : State) : Prop :=
  (portAt t (activePort s)).log = (portAt s (activePort s)).log ∨
    ∃ r, Listed i r ∧ (portAt t (activePort s)).log = (portAt s (activePort s)).log ++ [r]

/-- The response that was logged is listed. -/
theorem LogsListed.listed {s t : State} {i : Instr} {r : Response} (h : LogsListed s i t)
    (hlog : (portAt t (activePort s)).log = (portAt s (activePort s)).log ++ [r]) : Listed i r := by
  obtain hsame | ⟨r', hr', hlog'⟩ := h
  · simp [hsame] at hlog
  · obtain rfl : r' = r := by simpa [hlog'] using hlog
    exact hr'

/-! ### What each way to end a micro-step logs -/

section Outside
variable {s u : State} (hu : SameOutside s u)
include hu

theorem SameOutside.storeIdx (r : IndexReg) (v : Nat) : SameOutside s (storeIdx r v u) :=
  hu.trans ⟨portAt_storeIdx u r v, storeIdx_cfg .., storeIdx_modelFault .., storeIdx_turn .., storeIdx_inputs ..⟩

theorem SameOutside.withSlots (m : Memory) : SameOutside s { u with slots := m } :=
  hu.trans ⟨portAt_withSlots u m, rfl, rfl, rfl, rfl⟩

/-- A listed answer, whatever was done to the buffer and the contexts before it. -/
theorem SameOutside.logsListed_respond {i : Instr} {r : Response} (hr : Listed i r) :
    NextHas (LogsListed s i) (.next (respond r u)) :=
  nextHas_next (.inr ⟨r, hr, congrArg PortState.log (hu.answers r).1⟩)

/-- Going on logs nothing. -/
theorem SameOutside.logsListed_continueWith (i : Instr) (l : Locals) :
    NextHas (LogsListed s i) (.next (continueWith l u)) := by
  refine nextHas_next (.inl ?_)
  cases hphase : (portAt s (activePort s)).phase with
  | idle => rw [continueWith_idle u l (by rw [hu.activePort_eq, hu.ports, hphase]), hu.ports]
  | busy c j l₀ => rw [(hu.goesOn l hphase).1]

end Outside

section Commands
variable {s : State} {i : Instr}

theorem logsListed_recordFault (f : ModelFault) : NextHas (LogsListed s i) (.next (recordFault f s)) :=
  nextHas_next (.inl (by rw [portAt_recordFault]))

theorem logsListed_memRead {a : Nat} {k : Nat → Result} (h : ∀ v, NextHas (LogsListed s i) (k v)) :
    NextHas (LogsListed s i) (memRead a s k) := fun t ht => by
  obtain ⟨v, -, -, hk⟩ | ⟨-, rfl⟩ := memRead_next ht
  · exact h v t hk
  · exact logsListed_recordFault _ _ rfl

theorem logsListed_loadBoth {fin : Nat → Nat → State → State}
    (h : ∀ a b, NextHas (LogsListed s i) (.next (fin a b s))) : NextHas (LogsListed s i) (loadBoth s fin) := fun t ht => by
  obtain ⟨-, rfl⟩ | ⟨c, l, -, ⟨-, rfl⟩ | ⟨h', -, -, rfl⟩⟩ := loadBoth_next ht
  · exact h _ _ _ rfl
  · exact (SameOutside.refl s).logsListed_continueWith i _ _ rfl
  · exact h _ _ _ rfl

/-- The second micro-step of the transfer commands: a listed answer, or on to the slot access. -/
theorem logsListed_answerOrGoOn {r : Response} (hr : Listed i r) (b : Prop) [Decidable b] (l : Locals) :
    NextHas (LogsListed s i) (if b then .next (respond r s) else .next (continueWith l s)) := by
  split
  · exact (SameOutside.refl s).logsListed_respond hr
  · exact (SameOutside.refl s).logsListed_continueWith i l

/-! ### Each command -/

theorem logsListed_pushWhole (v : Nat) : NextHas (LogsListed s (.push v)) (pushWhole v s) := by
  have hs := SameOutside.refl s
  unfold pushWhole
  dsimp only
  split
  · split
    · exact nextHas_memWrite ((((hs.storeIdx ..).withSlots _).storeIdx ..).logsListed_respond (.inl rfl))
    · exact hs.logsListed_respond (.inr rfl)
  · exact nextHas_memWrite (((hs.withSlots _).storeIdx ..).logsListed_respond (.inl rfl))

theorem logsListed_pushMicro (v : Nat) : NextHas (LogsListed s (.push v)) (pushMicro v s) := by
  have hs := SameOutside.refl s
  refine nextHas_microStep fun j l => ?_
  split
  · exact hs.logsListed_continueWith _ _
  · exact nextHas_withLocal fun n => logsListed_answerOrGoOn (i := .push v) (.inr rfl) _ _
  · exact nextHas_withLocal fun h => nextHas_memWrite ((hs.withSlots _).logsListed_continueWith _ _)
  · exact nextHas_withLocal fun n => (hs.storeIdx ..).logsListed_respond (.inl rfl)
  · exact nextHas_refused _

theorem logsListed_popWhole : NextHas (LogsListed s .pop) (popWhole s) := by
  have hs := SameOutside.refl s
  unfold popWhole
  dsimp only
  split
  · exact hs.logsListed_respond (.inr rfl)
  · exact logsListed_memRead fun v => (hs.storeIdx ..).logsListed_respond (.inl ⟨v, rfl⟩)

theorem logsListed_popMicro : NextHas (LogsListed s .pop) (popMicro s) := by
  have hs := SameOutside.refl s
  refine nextHas_microStep fun j l => ?_
  split
  · exact hs.logsListed_continueWith _ _
  · exact nextHas_withLocal fun h => logsListed_answerOrGoOn (i := .pop) (.inr rfl) _ _
  · exact nextHas_withLocal fun t => logsListed_memRead fun v => hs.logsListed_continueWith _ _
  · exact nextHas_withLocal fun t => nextHas_withLocal fun v => (hs.storeIdx ..).logsListed_respond (.inl ⟨v, rfl⟩)
  · exact nextHas_refused _

theorem logsListed_peekWhole : NextHas (LogsListed s .peek) (peekWhole s) := by
  have hs := SameOutside.refl s
  unfold peekWhole
  dsimp only
  split
  · exact hs.logsListed_respond (.inr rfl)
  · exact logsListed_memRead fun v => hs.logsListed_respond (.inl ⟨v, rfl⟩)

theorem logsListed_peekMicro : NextHas (LogsListed s .peek) (peekMicro s) := by
  have hs := SameOutside.refl s
  refine nextHas_microStep fun j l => ?_
  split
  · exact hs.logsListed_continueWith _ _
  · exact nextHas_withLocal fun h => logsListed_answerOrGoOn (i := .peek) (.inr rfl) _ _
  · exact nextHas_withLocal fun t => logsListed_memRead fun v => hs.logsListed_respond (.inl ⟨v, rfl⟩)
  · exact nextHas_refused _

/-- ITER_NEXT where the port runs it (R177). -/
theorem exec_iterNext {k : CtxNum} (h : admitted s.cfg (activePort s) (.iterNext k) = true) :
    exec (.iterNext k) s =
      if (iterAt s k).remaining = 0 then .next (respond { status := .iterDone } s)
      else memRead (iterAt s k).cursor s fun v =>
        .next (respond { status := .ok, data := v }
          (setIter s k { cursor := advance s.cfg (iterAt s k).cursor, remaining := (iterAt s k).remaining - 1 })) :=
  whenAdmitted_of_admitted _ h

/-- A command that the port runs logs nothing, or one response of its own row of R88. -/
theorem exec_logsListed (h : admitted s.cfg (activePort s) i = true) : NextHas (LogsListed s i) (exec i s) := by
  have hs := SameOutside.refl s
  cases i with
  | nop =>
    rw [exec_nop]
    exact hs.logsListed_respond rfl
  | push v =>
    rw [exec_push h]
    split
    exacts [logsListed_pushMicro v, logsListed_pushWhole v]
  | pop =>
    rw [exec_pop h]
    split
    exacts [logsListed_popMicro, logsListed_popWhole]
  | peek =>
    rw [exec_peek h]
    split
    exacts [logsListed_peekMicro, logsListed_peekWhole]
  | clear =>
    rw [exec_clear_eq]
    split
    · exact logsListed_recordFault _
    · exact (sameOutside_clearIndices s).logsListed_respond rfl
  | isEmpty =>
    rw [exec_isEmpty h]
    exact logsListed_loadBoth fun _ _ => hs.logsListed_respond ⟨_, rfl⟩
  | isFull =>
    rw [exec_isFull h]
    exact logsListed_loadBoth fun _ _ => hs.logsListed_respond ⟨_, rfl⟩
  | len =>
    rw [exec_len h]
    exact logsListed_loadBoth fun _ _ => hs.logsListed_respond ⟨_, rfl⟩
  | iterCreate k =>
    rw [exec_iterCreate h]
    exact logsListed_loadBoth fun _ _ => (sameOutside_setIter ..).logsListed_respond ⟨_, rfl⟩
  | iterNext k =>
    rw [exec_iterNext h]
    split
    · exact hs.logsListed_respond (.inr rfl)
    · exact logsListed_memRead fun v => (sameOutside_setIter ..).logsListed_respond (.inl ⟨v, rfl⟩)

end Commands

/-- A command that the port does not run logs ILLEGAL, and every other field is 0 (R87, R90). -/
theorem eq_illegal_of_not_admitted {s t : State} {i : Instr} {r : Response}
    (ha : admitted s.cfg (activePort s) i = false) (h : exec i s = .next t)
    (hlog : (portAt t (activePort s)).log = (portAt s (activePort s)).log ++ [r]) : r = { status := .illegal } := by
  obtain ⟨t', ht', ⟨hport, -, -⟩, -⟩ := exec_answersIllegal ha
  obtain rfl : t' = t := by simpa [ht'] using h
  simpa [hport] using hlog.symm

theorem statusCode_le_four (x : Status) : (statusCode x).toNat ≤ 4 := by cases x <;> decide

/-- Settles O50: what was logged is the one response of a command that is not admitted, or listed for one that is. -/
theorem responseFieldsOfEachCommand : Obligations.ResponseFieldsOfEachCommand := fun _ t _ r h hlog =>
  ⟨fun ha => eq_illegal_of_not_admitted ha h hlog, fun ha => (exec_logsListed ha t h).listed hlog,
    statusCode_le_four r.status⟩

end Sys2Proof.Machine
end

section
/-! PROOFS. The claims about index arithmetic (40_index_arithmetic.md): the two paths of `advance`, its laps, the
length as a remainder, and the comparators. -/

namespace Sys2Proof.Machine

section Claims
variable {cfg : Config} {i h t : Nat}

/-! ### The wrapped increment (R100 to R103) -/

/-- The mask path of `advance` (R100). -/
theorem advance_eq_and_of_pow2 (hp : pow2 cfg = true) (i : Nat) :
    advance cfg i = (i + 1) &&& (cfg.capacity - 1) := by
  simp [advance, wrapMask_of_pow2 hp]

/-- Counting `n` slots on from a slot is adding `n` modulo the capacity. -/
theorem iterate_advance_eq_mod (hi : i < cfg.capacity) (n : Nat) :
    (advance cfg)^[n] i = (i + n) % cfg.capacity := by
  induction n with
  | zero => exact (Nat.mod_eq_of_lt hi).symm
  | succ n ih => rw [Function.iterate_succ_apply', ih, advance_eq_mod, Nat.mod_add_mod, Nat.add_assoc]

/-! ### The length (R104, R105) -/

/-- The length as a remainder of naturals: `C` is added before the subtraction. -/
theorem len_eq_mod (hh : h < cfg.capacity) (ht : t < cfg.capacity) :
    len cfg h t = (h + cfg.capacity - t) % cfg.capacity := by
  unfold len
  split
  · rw [Nat.sub_add_comm ‹t ≤ h›, Nat.add_mod_right, Nat.mod_eq_of_lt (by omega)]
  · rw [Nat.mod_eq_of_lt (by omega)]
    omega

/-- The length is the mathematical remainder of the difference of the indices (R105). -/
theorem len_eq_emod (hh : h < cfg.capacity) (ht : t < cfg.capacity) :
    (len cfg h t : Int) = ((h : Int) - (t : Int)) % (cfg.capacity : Int) := by
  rw [len_eq_mod hh ht, Int.natCast_emod, Nat.cast_sub (by omega), Nat.cast_add, add_sub_right_comm,
    Int.add_emod_right]

/-- The IW-bit difference is the length where the index registers hold exactly `C` values (R105). -/
theorem width_difference_eq_len (hh : h < cfg.capacity) (ht : t < cfg.capacity)
    (hC : cfg.capacity = 2 ^ indexWidth cfg ∨ cfg.capacity = 1) :
    (h + 2 ^ indexWidth cfg - t) % 2 ^ indexWidth cfg = len cfg h t := by
  obtain hC | hC := hC
  · rw [← hC, len_eq_mod hh ht]
  · obtain rfl : h = t := by omega
    rw [Nat.add_sub_cancel_left, Nat.mod_self, len_self]

/-- Elsewhere the IW-bit difference of wrapped indices is too large by `2 ^ IW - C` (R105). -/
theorem width_difference_eq_len_add (ht : t < cfg.capacity) (hlt : h < t) :
    (h + 2 ^ indexWidth cfg - t) % 2 ^ indexWidth cfg = len cfg h t + (2 ^ indexWidth cfg - cfg.capacity) := by
  have hW := capacity_le_two_pow_indexWidth cfg
  rw [Nat.mod_eq_of_lt (by omega), len, if_neg (by omega)]
  omega

/-! ### The comparators (R106, R107) -/

/-- `is_empty` compares the indices (R106), so it says that the length is 0. -/
theorem isEmpty_iff_len (ht : t < cfg.capacity) : isEmpty h t = true ↔ len cfg h t = 0 := by
  rw [isEmpty, beq_iff_eq, len_eq_zero_iff ht]

/-- `is_full` compares `tail` with the successor of `head` (R107), so it says that the length is `C - 1`. -/
theorem isFull_iff_len (hh : h < cfg.capacity) (ht : t < cfg.capacity) :
    isFull cfg h t = true ↔ len cfg h t = cfg.capacity - 1 := by
  rw [isFull, beq_iff_eq, advance_eq_iff_len hh ht]

end Claims

/-- Settles O4: both paths are `advance`, and `advance` has its compare form. -/
theorem maskPathEqualsModuloPath : Obligations.MaskPathEqualsModuloPath := by
  refine fun cfg i hi => ⟨fun hp => ?_, advance_eq_mod cfg i, ?_⟩
  · rw [← advance_eq_and_of_pow2 hp, advance_eq_mod]
  · have hlast : i + 1 = cfg.capacity ↔ i = cfg.capacity - 1 := by omega
    simp only [advance_eq_ite hi, hlast]

/-- Settles O5: `n` applications add `n` modulo `C`, and two positions of one lap are different slots. -/
theorem advanceVisitsEverySlotOncePerLap : Obligations.AdvanceVisitsEverySlotOncePerLap := by
  refine fun cfg i hi => ⟨advance_lt (Nat.zero_lt_of_lt hi) i, ?_, fun n hn hlt => ?_⟩
  · rw [iterate_advance_eq_mod hi, Nat.add_mod_right, Nat.mod_eq_of_lt hi]
  · have hne := slot_ne_of_lt (t := i) hn hlt
    rw [Nat.add_zero, Nat.mod_eq_of_lt hi] at hne
    rw [iterate_advance_eq_mod hi]
    exact hne.symm

/-- Settles O6: the IW-bit difference is a remainder by `2 ^ IW`, which is at least `C`. -/
theorem lenIsDifferenceModuloCapacity : Obligations.LenIsDifferenceModuloCapacity := by
  refine fun cfg h t hh ht =>
    ⟨len_eq_emod hh ht, Nat.le_sub_one_of_lt (len_lt hh t), width_difference_eq_len hh ht, fun hC hlt => ?_⟩
  have hW := capacity_le_two_pow_indexWidth cfg
  rw [width_difference_eq_len_add ht hlt]
  omega

/-- Settles O7: each comparator names one length, and the two lengths are the same exactly at `C = 1`. -/
theorem comparatorsAgreeWithLen : Obligations.ComparatorsAgreeWithLen := by
  intro cfg h t hh ht
  have hlt := len_lt hh t
  rw [isEmpty_iff_len ht, isFull_iff_len hh ht]
  refine ⟨.rfl, .rfl, fun hC => ?_, fun hC => ?_⟩ <;> omega

/-- Settles O8: 0 is the only index in range, and at `C = 1` both comparators hold (R108). -/
theorem singleSlotIsEmptyAndFullAtOnce : Obligations.SingleSlotIsEmptyAndFullAtOnce := by
  intro s hidx hC
  obtain ⟨hh, ht⟩ := hidx
  have hadv : advance s.cfg 0 < s.cfg.capacity := advance_lt (by omega) 0
  obtain ⟨-, -, -, hboth⟩ := comparatorsAgreeWithLen s.cfg s.head s.tail hh ht
  obtain ⟨hempty, hfull⟩ := hboth hC
  exact ⟨by omega, by omega, by omega, hempty, hfull, contents_eq_nil_of_single_slot ⟨hh, ht⟩ hC⟩

end Sys2Proof.Machine
end

section
/-! PROOFS. The claims about PUSH, POP and PEEK (41_transfer.md): whole commands, micro-steps, and a PUSH followed by a
POP. -/

namespace Sys2Proof.Machine

/-! ### Outcomes that leave the buffer -/

section Keeping
variable {s : State} {x : Result}

/-- An answer alone changes no index, slot or context (R16). -/
theorem exists_answers_sameBuffer {r : Response} (h : x = .next (respond r s)) :
    ∃ t, x = .next t ∧ Answers r s t ∧ SameBuffer s t :=
  ⟨_, h, (SameOutside.refl s).answers r, (sameBlock_respond s r).sameBuffer⟩

/-- Going on alone changes no index, slot or context (R17). -/
theorem exists_goesOn_sameBuffer {c : Command} {j : Nat} {l l' : Locals} (hm : AtMicro s c j l)
    (h : x = .next (continueWith l' s)) : ∃ t, x = .next t ∧ GoesOn c j l' s t ∧ SameBuffer s t :=
  ⟨_, h, (SameOutside.refl s).goesOn l' hm.2, (sameBlock_continueWith s l').sameBuffer⟩

end Keeping

/-! ### Whole commands (R121, R127, R133) -/

/-- A value that fits is read back from the slot it was written to. -/
theorem slotAt_setSlot_fitWidth {cfg : Config} {v : Nat} (m : Memory) (a : Nat) (hv : v < 2 ^ cfg.dataWidth) :
    slotAt (setSlot m a (fitWidth cfg v)) a = some v := by
  rw [fitWidth_of_lt hv, slotAt_setSlot_same]

/-- What a PUSH that stored its operand leaves (R121). -/
theorem pushed_buffer (s : State) {v : Nat} (r : Response) (hv : v < 2 ^ s.cfg.dataWidth) :
    let t := respond r (advanceHead (writeHead v s))
    t.head = advance s.cfg s.head ∧ t.tail = s.tail ∧ slotAt t.slots s.head = some v ∧
      SameStorageBut s.head s t ∧ t.iters = s.iters := by
  refine ⟨by simp, by simp, ?_, fun a ha => ?_, by simp⟩
  · simpa using slotAt_setSlot_fitWidth s.slots s.head hv
  · simpa using slotAt_setSlot_other s.slots _ ha

/-- Settles O26: each branch of the whole PUSH, and what storing the operand leaves. -/
theorem pushWholeStep : Obligations.PushWholeStep := by
  intro s v hts hh hv
  rw [exec_push_of_whole hts]
  refine ⟨fun hroom => ?_, fun hfull hov => exists_answers_sameBuffer (pushWhole_full hfull hov), fun hfull hov => ?_⟩
  · exact ⟨_, pushWhole_room hh hroom, ((sameOutside_writeHead s v).trans (sameOutside_advanceHead _)).answers _,
      pushed_buffer s _ hv⟩
  · exact ⟨_, pushWhole_overwrite hh hfull hov,
      (((sameOutside_advanceTail s).trans (sameOutside_writeHead _ v)).trans (sameOutside_advanceHead _)).answers _,
      pushed_buffer (advanceTail s) _ hv⟩

/-- What a POP that took an element leaves, whichever index it published (R127, R128). -/
theorem popped_buffer (s : State) (n : Nat) (r : Response) :
    let t := respond r (storeIdx .tail n s)
    t.head = s.head ∧ t.tail = n ∧ SameStorage s t ∧ t.iters = s.iters :=
  ⟨by simp, by simp, fun a => by simp, by simp⟩

/-- Settles O28: both branches of the whole POP. -/
theorem popWholeStep : Obligations.PopWholeStep := by
  intro s hts ht
  rw [exec_pop_of_whole hts]
  exact ⟨fun he => exists_answers_sameBuffer (popWhole_empty he.symm), fun v hne hslot =>
    ⟨_, popWhole_value ht hne.symm hslot, (sameOutside_advanceTail s).answers _, popped_buffer s _ _⟩⟩

/-- Settles O30: both branches of the whole PEEK. -/
theorem peekWholeStep : Obligations.PeekWholeStep := by
  intro s hts ht
  rw [exec_peek_of_whole hts]
  exact ⟨fun he => exists_answers_sameBuffer (peekWhole_empty he.symm), fun v hne hslot =>
    exists_answers_sameBuffer (peekWhole_value ht hne.symm hslot)⟩

/-! ### Micro-steps (R122, R128, R134) -/

section Micro
variable {s : State} {c : Command} {l : Locals} {v a : Nat}

/-- On PROD the micro-steps of PUSH run (R86). -/
theorem exec_push_of_producer (hts : s.cfg.threadSafe = true) (hturn : s.turn = .producer) (v : Nat) :
    exec (.push v) s = pushMicro v s := by
  rw [exec_push (by rw [activePort_of_threadSafe hts, hturn]; rfl), if_pos hts]

/-- On CONS the micro-steps of POP run (R86). -/
theorem exec_pop_of_consumer (hts : s.cfg.threadSafe = true) (hturn : s.turn = .consumer) :
    exec .pop s = popMicro s := by
  rw [exec_pop (by rw [activePort_of_threadSafe hts, hturn]; rfl), if_pos hts]

/-- On CONS the micro-steps of PEEK run (R86). -/
theorem exec_peek_of_consumer (hts : s.cfg.threadSafe = true) (hturn : s.turn = .consumer) :
    exec .peek s = peekMicro s := by
  rw [exec_peek (by rw [activePort_of_threadSafe hts, hturn]; rfl), if_pos hts]

/-- PUSH's s3 writes the slot that the local `h` names, whatever `head` is then. -/
theorem pushMicro_s3_of_local (hp : (portAt s (activePort s)).phase = .busy c 3 l) (hl : l.h = some a)
    (ha : a < s.cfg.capacity) :
    pushMicro v s = .next (continueWith l { s with slots := setSlot s.slots a (fitWidth s.cfg v) }) := by
  simp only [pushMicro, microStep_busy _ hp, withLocal, hl, memWrite_lt _ ha]

/-- PUSH's s4 publishes the local `n`. -/
theorem pushMicro_s4_of_local (hp : (portAt s (activePort s)).phase = .busy c 4 l) (hn : l.n = some a) :
    pushMicro v s = .next (respond { status := .ok } (storeIdx .head a s)) := by
  simp only [pushMicro, microStep_busy _ hp, withLocal, hn]

/-- POP's s3 reads the slot that the local `t` names. -/
theorem popMicro_s3_of_local (hp : (portAt s (activePort s)).phase = .busy c 3 l) (hl : l.t = some a)
    (ha : a < s.cfg.capacity) (hslot : slotAt s.slots a = some v) :
    popMicro s = .next (continueWith { l with v := some v } s) := by
  simp only [popMicro, microStep_busy _ hp, withLocal, hl, memRead_some _ ha hslot]

/-- POP's s4 publishes the successor of the local `t`. -/
theorem popMicro_s4_of_local (hp : (portAt s (activePort s)).phase = .busy c 4 l) (hl : l.t = some a)
    (hv : l.v = some v) :
    popMicro s = .next (respond { status := .ok, data := v } (storeIdx .tail (advance s.cfg a) s)) := by
  simp only [popMicro, microStep_busy _ hp, withLocal, hl, hv]

/-- PEEK's s3 answers the slot that the local `t` names. -/
theorem peekMicro_s3_of_local (hp : (portAt s (activePort s)).phase = .busy c 3 l) (hl : l.t = some a)
    (ha : a < s.cfg.capacity) (hslot : slotAt s.slots a = some v) :
    peekMicro s = .next (respond { status := .ok, data := v } s) := by
  simp only [peekMicro, microStep_busy _ hp, withLocal, hl, memRead_some _ ha hslot]

end Micro

/-- Settles O27: s1 and s2 leave the buffer, s3 writes one slot, s4 publishes `head`. -/
theorem pushMicroSteps : Obligations.PushMicroSteps := by
  intro s v c l hturn
  have hx {j} (hm : AtMicro s c j l) : exec (.push v) s = pushMicro v s := exec_push_of_producer hm.1 hturn v
  refine ⟨fun hm => ?_, fun n hm hn hfull => ?_, fun n hm hn hroom => ?_, fun h hm hl hh hv => ?_, fun n hm hn => ?_⟩
  · exact exists_goesOn_sameBuffer hm ((hx hm).trans (pushMicro_s1 hm.2))
  · exact exists_answers_sameBuffer ((hx hm).trans (pushMicro_s2_full hm.2 hn hfull))
  · exact exists_goesOn_sameBuffer hm ((hx hm).trans (pushMicro_s2_room hm.2 hn hroom))
  · refine ⟨_, (hx hm).trans (pushMicro_s3_of_local hm.2 hl hh), ((SameOutside.refl s).withSlots _).goesOn l hm.2,
      by simp, by simp, ?_, fun a ha => ?_, by simp⟩
    · simpa using slotAt_setSlot_fitWidth s.slots h hv
    · simpa using slotAt_setSlot_other s.slots _ ha
  · exact ⟨_, (hx hm).trans (pushMicro_s4_of_local hm.2 hn), ((SameOutside.refl s).storeIdx .head n).answers _,
      by simp, by simp, fun a => by simp, by simp⟩

section Read
variable {s : State} {c : Command} {l : Locals} {i : Instr} (hi : i = .pop ∨ i = .peek) (hturn : s.turn = .consumer)
include hi hturn

/-- POP and PEEK share s1 and s2. -/
theorem exec_read_of_consumer {j : Nat} (hm : AtMicro s c j l) (hj : j = 1 ∨ j = 2) : exec i s = popMicro s := by
  obtain rfl | rfl := hi
  · exact exec_pop_of_consumer hm.1 hturn
  · rw [exec_peek_of_consumer hm.1 hturn, peekMicro_eq_popMicro hm.2 hj]

/-- s1 loads `head`. -/
theorem read_s1_loads_head (hm : AtMicro s c 1 l) :
    ∃ t, exec i s = .next t ∧ GoesOn c 1 { l with h := some s.head } s t ∧ SameBuffer s t :=
  exists_goesOn_sameBuffer hm ((exec_read_of_consumer hi hturn hm (.inl rfl)).trans (popMicro_s1 hm.2))

/-- s2 refuses where the loaded `head` shows no element. -/
theorem read_s2_refuses_empty (h : Nat) (hm : AtMicro s c 2 l) (hl : l.h = some h) (he : s.tail = h) :
    ∃ t, exec i s = .next t ∧ Answers { status := .bufferEmpty } s t ∧ SameBuffer s t :=
  exists_answers_sameBuffer ((exec_read_of_consumer hi hturn hm (.inr rfl)).trans (popMicro_s2_empty hm.2 hl he))

/-- s2 loads `tail` where the loaded `head` shows an element. -/
theorem read_s2_loads_tail (h : Nat) (hm : AtMicro s c 2 l) (hl : l.h = some h) (hne : s.tail ≠ h) :
    ∃ t, exec i s = .next t ∧ GoesOn c 2 { l with t := some s.tail } s t ∧ SameBuffer s t :=
  exists_goesOn_sameBuffer hm ((exec_read_of_consumer hi hturn hm (.inr rfl)).trans (popMicro_s2_some hm.2 hl hne))

end Read

/-- Settles O29: s1 and s2 as PEEK's, s3 reads the slot, s4 publishes `tail`. -/
theorem popMicroSteps : Obligations.PopMicroSteps := by
  refine fun s c l hturn => ⟨read_s1_loads_head (.inl rfl) hturn, read_s2_refuses_empty (.inl rfl) hturn,
    read_s2_loads_tail (.inl rfl) hturn, fun a v hm hl ha hslot => ?_, fun a v hm hl hv => ?_⟩
  · exact exists_goesOn_sameBuffer hm ((exec_pop_of_consumer hm.1 hturn).trans (popMicro_s3_of_local hm.2 hl ha hslot))
  · exact ⟨_, (exec_pop_of_consumer hm.1 hturn).trans (popMicro_s4_of_local hm.2 hl hv),
      ((SameOutside.refl s).storeIdx .tail _).answers _, popped_buffer s _ _⟩

/-- Settles O31: s1 and s2 as POP's, and s3 answers what it reads. -/
theorem peekMicroSteps : Obligations.PeekMicroSteps := by
  refine fun s c l hturn => ⟨read_s1_loads_head (.inr rfl) hturn, read_s2_refuses_empty (.inr rfl) hturn,
    read_s2_loads_tail (.inr rfl) hturn, fun a v hm hl ha hslot => ?_⟩
  exact exists_answers_sameBuffer ((exec_peek_of_consumer hm.1 hturn).trans (peekMicro_s3_of_local hm.2 hl ha hslot))

/-! ### PUSH, then POP (R124, R130) -/

/-- When THREAD_SAFE = 0 every command keeps the buffer in order. -/
theorem BufferOk.of_exec_whole {s t : State} {i : Instr} (hinv : Inv s) (hts : s.cfg.threadSafe = false)
    (h : exec i s = .next t) : BufferOk t :=
  ((inv_iff t).1 ((effect_of_exec hinv (fun hf => by simp [hts] at hf) h).inv hinv)).1

/-- Settles O57: PUSH puts its operand behind the contents, POP takes their front, and the lengths follow. -/
theorem pushThenPopRoundTrip : Obligations.PushThenPopRoundTrip := by
  intro s t u v hinv hts hv hfull hpush hpop
  have hfree : advance s.cfg s.head ≠ s.tail := fun he => by simp [(fullOutput_eq_true_iff s).2 he] at hfull
  obtain ⟨happend, -⟩ := push_appends hts ((inv_iff s).1 hinv).1 hv hfree hpush
  have hts' : t.cfg.threadSafe = false := by rw [exec_cfg hpush, hts]
  obtain ⟨hnil, -⟩ | ⟨w, htake, hrsp⟩ := pop_takes_oldest hts' (.of_exec_whole hinv hts hpush) hpop
  · simp [hnil] at happend
  · have hcontents : contents s ++ [some v] = some w :: contents u := happend.symm.trans htake
    refine ⟨by simpa using (congrArg List.length hcontents).symm, fun hempty => ?_⟩
    rw [contents_eq_nil s ((emptyOutput_eq_true_iff s).1 hempty)] at hcontents
    obtain rfl : v = w := by simpa using (List.cons.inj hcontents).1
    exact hrsp

end Sys2Proof.Machine
end

section
/-! PROOFS. The claims about the control commands CLEAR and NOP (42_control.md). -/

namespace Sys2Proof.Machine

/-- Settles O25: NOP is an answer alone. -/
theorem nopOnlyAnswersOk : Obligations.NopOnlyAnswersOk := fun _ => exists_answers_sameBuffer exec_nop

/-- A CLEAR that meets no race, at either THREAD_SAFE: what it answers and what it leaves (R141, R142). -/
theorem exec_clear_answers {s : State}
    (h : (s.cfg.threadSafe && inFlight (portAt s (otherPort (activePort s)))) = false) :
    ∃ t, exec .clear s = .next t ∧ Answers { status := .ok } s t ∧ t.head = 0 ∧ t.tail = 0 ∧
      SameStorage s t ∧ t.iters = s.iters :=
  ⟨_, exec_clear h, (sameOutside_clearIndices s).answers _, by simp, by simp, fun a => by simp, by simp⟩

/-- Settles O32: when THREAD_SAFE = 0 no other port can race. -/
theorem clearWholeStep : Obligations.ClearWholeStep := fun _ hts =>
  exec_clear_answers (Bool.and_eq_false_iff.2 (.inl hts))

/-- The first model fault of a run is the one recorded, and nothing else changes (R209). -/
theorem recordFault_of_safe {s : State} (f : ModelFault) (hsafe : Safe s) :
    recordFault f s = { s with modelFault := some f } :=
  (recordFault_cases s f).resolve_left fun h => recordFault_ne_none s f (by rwa [h])

/-- Settles O33: being in flight is holding a command at `j >= 2` (R32), so the two cases are CLEAR's two branches. -/
theorem clearMicroStep : Obligations.ClearMicroStep := by
  refine fun s hts => ⟨fun hquiet => ?_, fun c j l hsafe hbusy hj => ?_⟩
  · rw [← inFlight_eq_true_iff, Bool.not_eq_true] at hquiet
    exact exec_clear_answers (Bool.and_eq_false_iff.2 (.inr hquiet))
  · have hrace := (inFlight_eq_true_iff _).2 ⟨c, j, l, hbusy, hj⟩
    rw [exec_clear_race (Bool.and_eq_true_iff.2 ⟨hts, hrace⟩), recordFault_of_safe _ hsafe]

end Sys2Proof.Machine
end

section
/-! PROOFS. The claims about the query commands IS_EMPTY, IS_FULL and LEN, and about the two outputs (43_queries.md). -/

namespace Sys2Proof.Machine

/-! ### The outputs (R162) -/

/-- Settles O9: each output names one length (R108), and the length is the number of elements. -/
theorem outputsAgreeWithContents : Obligations.OutputsAgreeWithContents := by
  intro s hidx
  obtain ⟨hh, ht⟩ := hidx
  have hempty : emptyOutput s = true ↔ contents s = [] := by
    rw [emptyOutput, isEmpty_iff_len ht, ← length_contents, List.length_eq_zero_iff]
  have hfull : fullOutput s = true ↔ (contents s).length = s.cfg.capacity - 1 := by
    rw [fullOutput, isFull_iff_len hh ht, length_contents]
  have hbound : (contents s).length ≤ s.cfg.capacity - 1 := by
    rw [length_contents]
    exact Nat.le_sub_one_of_lt (len_lt hh s.tail)
  exact ⟨emptyOutput_eq_true_iff s, fullOutput_eq_true_iff s, length_contents s, hbound, hempty, hfull⟩

/-! ### The query commands (R151, R155, R159) -/

/-- The three queries differ only in the response they make of the two indices: when THREAD_SAFE = 0 one step answers from
the current ones, and when THREAD_SAFE = 1 s1 copies `head` and s2 answers from that copy and the `tail` of then. -/
theorem query_steps {s : State} {i : Instr} (r : Config → Nat → Nat → Response)
    (hexec : exec i s = loadBoth s fun h t s' => respond (r s'.cfg h t) s') :
    (s.cfg.threadSafe = false →
      ∃ t, exec i s = .next t ∧ Answers (r s.cfg s.head s.tail) s t ∧ SameBuffer s t) ∧
    (∀ c l, AtMicro s c 1 l →
      ∃ t, exec i s = .next t ∧ GoesOn c 1 { l with h := some s.head } s t ∧ SameBuffer s t) ∧
    (∀ c l h, AtMicro s c 2 l → l.h = some h →
      ∃ t, exec i s = .next t ∧ Answers (r s.cfg h s.tail) s t ∧ SameBuffer s t) := by
  refine ⟨fun hts => ?_, fun c l ⟨hts, hp⟩ => ?_, fun c l h ⟨hts, hp⟩ hl => ?_⟩
  · exact exists_answers_sameBuffer (hexec.trans (loadBoth_whole hts))
  · exact exists_goesOn_sameBuffer ⟨hts, hp⟩ (hexec.trans (loadBoth_s1 hts hp))
  · exact exists_answers_sameBuffer (hexec.trans (loadBoth_s2 hts hp hl))

/-- Settles O34: IS_EMPTY is the query that answers the comparator of R106. -/
theorem isEmptySteps : Obligations.IsEmptySteps := fun _ =>
  query_steps (fun _ h t => { status := .ok, flag := isEmpty h t }) (exec_isEmpty rfl)

/-- Settles O35: IS_FULL is the query that answers the comparator of R107. -/
theorem isFullSteps : Obligations.IsFullSteps := fun _ =>
  query_steps (fun cfg h t => { status := .ok, flag := isFull cfg h t }) (exec_isFull rfl)

/-- Settles O36: LEN is the query that answers the length, which is below `C` and so fits IW bits (R7, R104). -/
theorem lenSteps : Obligations.LenSteps := by
  intro s
  obtain ⟨hwhole, hs1, hs2⟩ :=
    query_steps (s := s) (fun cfg h t => { status := .ok, count := len cfg h t }) (exec_len rfl)
  exact ⟨hwhole, hs1, hs2, fun h hh _ => (len_lt hh s.tail).trans_le (capacity_le_two_pow_indexWidth s.cfg)⟩

end Sys2Proof.Machine
end

section
/-! PROOFS. The claims about the iterator commands ITER_CREATE and ITER_NEXT, and about what an iterator yields
(44_iterator.md). -/

namespace Sys2Proof.Machine

/-! ### The iterator commands (R172, R177) -/

section Context
variable (s : State) {k k' : CtxNum} (x : IterCtx)

/-- A context that exists reads as it was set. -/
theorem iterAt_setIter_same (hk : k.toNat < s.iters.length) : iterAt (setIter s k x) k = x := by
  simp [iterAt, hk]

/-- Setting a context leaves every other (R171). -/
theorem iterAt_setIter_other (hne : k' ≠ k) : iterAt (setIter s k x) k' = iterAt s k' := by
  have hpos : k.toNat ≠ k'.toNat := fun he => hne (BitVec.eq_of_toNat_eq he).symm
  simp [iterAt, List.getElem?_set_ne hpos]

/-- An answer reads no context. -/
@[simp] theorem iterAt_respond (r : Response) (k : CtxNum) : iterAt (respond r s) k = iterAt s k := by
  simp [iterAt]

end Context

/-- An iterator command of a context that exists runs on every port but PROD (R84, R86). -/
theorem admitted_iterator {cfg : Config} {p : PortId} {k : CtxNum} {i : Instr}
    (hi : i = .iterCreate k ∨ i = .iterNext k) (hk : k.toNat < cfg.nIter) (hp : p ≠ .prod) : admitted cfg p i = true := by
  obtain rfl | rfl := hi <;> simp [admitted, permitted, contextExists, hk, hp]

/-- What an answer that sets context `k` leaves: the only change outside the answering port is that context. -/
theorem exists_answers_setIter {s : State} {k : CtxNum} {x : IterCtx} {r : Response} {y : Result}
    (hk : k.toNat < s.iters.length) (h : y = .next (respond r (setIter s k x))) :
    ∃ t, y = .next t ∧ Answers r s t ∧ t.head = s.head ∧ t.tail = s.tail ∧ SameStorage s t ∧
      t.iters.length = s.iters.length ∧ iterAt t k = x ∧ ∀ k', k' ≠ k → iterAt t k' = iterAt s k' := by
  refine ⟨_, h, (sameOutside_setIter s k x).answers r, by simp, by simp, fun a => by simp, by simp, ?_,
    fun k' hne => ?_⟩
  · rw [iterAt_respond, iterAt_setIter_same s x hk]
  · rw [iterAt_respond, iterAt_setIter_other s x hne]

/-- Settles O37: s1 copies `head`, and the answering step sets context `k` from it and from the `tail` of then. -/
theorem iterCreateSteps : Obligations.IterCreateSteps := by
  intro s k hk hlen hp
  have hexec := exec_iterCreate (admitted_iterator (.inl rfl) hk hp)
  rw [← hlen] at hk
  refine ⟨fun hts => ?_, fun c l hm => ?_, fun c l h hm hl => ?_⟩
  · exact exists_answers_setIter hk (hexec.trans (loadBoth_whole hts))
  · exact exists_goesOn_sameBuffer hm (hexec.trans (loadBoth_s1 hm.1 hm.2))
  · exact exists_answers_setIter hk (hexec.trans (loadBoth_s2 hm.1 hm.2 hl))

/-- Settles O38: an exhausted context is only answered, and any other is read and then moved on. -/
theorem iterNextStep : Obligations.IterNextStep := by
  intro s k hk hlen hp
  have ha := admitted_iterator (.inr rfl) hk hp
  rw [← hlen] at hk
  exact ⟨fun hrem => exists_answers_sameBuffer (exec_iterNext_done ha hrem), fun v hrem hcur hslot =>
    exists_answers_setIter hk (exec_iterNext_value ha hrem hcur hslot)⟩

/-! ### What an iterator has still to yield (R181, R182) -/

/-- The elements a context `x` has still to yield from the storage `m`, in order. -/
def leftToYield (cfg : Config) (m : Memory) (x : IterCtx) : List (Option Nat) :=
  (List.range x.remaining).map fun j => slotAt m ((x.cursor + j) % cfg.capacity)

theorem iterContents_eq (s : State) (k : CtxNum) : iterContents s k = leftToYield s.cfg s.slots (iterAt s k) := rfl

/-- A context of the logical range yields the logical contents (R25). -/
theorem leftToYield_logical (s : State) :
    leftToYield s.cfg s.slots { cursor := s.tail, remaining := len s.cfg s.head s.tail } = contents s := rfl

/-- What is left begins with the slot of the cursor, and the rest is left to the context ITER_NEXT leaves (R177). -/
theorem leftToYield_eq_cons {cfg : Config} (m : Memory) {x : IterCtx} (hrem : x.remaining ≠ 0)
    (hcur : x.cursor < cfg.capacity) :
    leftToYield cfg m x = slotAt m x.cursor ::
      leftToYield cfg m { cursor := advance cfg x.cursor, remaining := x.remaining - 1 } := by
  obtain ⟨n, hn⟩ := Nat.exists_eq_succ_of_ne_zero hrem
  simp only [leftToYield, hn, Nat.succ_eq_add_one, Nat.add_sub_cancel, List.range_succ_eq_map, List.map_cons,
    List.map_map, Nat.add_zero, Nat.mod_eq_of_lt hcur, List.cons.injEq, true_and]
  exact List.map_congr_left fun j _ => congrArg _ (advance_add_mod ..).symm

/-- A write to a slot that is not still to come changes nothing that is left. -/
theorem leftToYield_setSlot {cfg : Config} (m : Memory) {a : Nat} (v : Nat) {x : IterCtx}
    (h : ∀ j < x.remaining, (x.cursor + j) % cfg.capacity ≠ a) :
    leftToYield cfg (setSlot m a v) x = leftToYield cfg m x :=
  List.map_congr_left fun j hj => slotAt_setSlot_other m v (h j (List.mem_range.1 hj))

/-- What an answer that set context `k` leaves to yield. -/
theorem iterContents_respond_setIter {s : State} {k : CtxNum} (x : IterCtx) (r : Response)
    (hk : k.toNat < s.iters.length) :
    iterContents (respond r (setIter s k x)) k = leftToYield s.cfg s.slots x := by
  simp [iterContents_eq, iterAt_setIter_same s x hk]

/-- A command changes no context but its own (R171). -/
theorem iterAt_of_exec {s t : State} {k : CtxNum} {i : Instr} (h : exec i s = .next t) (hcreate : i ≠ .iterCreate k)
    (hnext : i ≠ .iterNext k) : iterAt t k = iterAt s k := by
  obtain ⟨-, -, -, hiter⟩ := onlyTheseCommandsChangeState.1 s t i h
  exact by_contra fun hne => (hiter k hne).elim hcreate hnext

section Whole
variable {s t : State} (hts : s.cfg.threadSafe = false)
include hts

/-- What a whole PUSH can do, in every state: answer alone, store its operand where there is room, or drop the oldest
element for it (R121). -/
theorem push_whole_next {v : Nat} (h : exec (.push v) s = .next t) :
    (∃ r, t = respond r s) ∨
      (advance s.cfg s.head ≠ s.tail ∧ t = respond { status := .ok } (advanceHead (writeHead v s))) ∨
      (s.cfg.overwriteOnFull = true ∧
        t = respond { status := .ok } (advanceHead (writeHead v (advanceTail s)))) := by
  rw [exec_push_of_whole hts, pushWhole] at h
  split at h
  · split at h
    · next hov =>
      obtain ⟨-, h⟩ := memWrite_next h
      cases h
      exact .inr (.inr ⟨hov, rfl⟩)
    · cases h
      exact .inl ⟨_, rfl⟩
  · next hfree =>
    obtain ⟨-, h⟩ := memWrite_next h
    cases h
    exact .inr (.inl ⟨hfree, rfl⟩)

/-- A whole PUSH writes no slot but the one `head` names. -/
theorem slots_of_push_whole {v : Nat} (h : exec (.push v) s = .next t) :
    t.slots = s.slots ∨ t.slots = setSlot s.slots s.head (fitWidth s.cfg v) := by
  obtain ⟨r, rfl⟩ | ⟨-, rfl⟩ | ⟨-, rfl⟩ := push_whole_next hts h
  · exact .inl (by simp)
  · exact .inr (by simp)
  · exact .inr (by simp)

/-- Without overwriting a whole PUSH takes no element away. -/
theorem len_le_of_push_whole (hidx : IndicesInRange s) (hov : s.cfg.overwriteOnFull = false) {v : Nat}
    (h : exec (.push v) s = .next t) : len s.cfg s.head s.tail ≤ len t.cfg t.head t.tail := by
  obtain ⟨r, rfl⟩ | ⟨hfree, rfl⟩ | ⟨hon, -⟩ := push_whole_next hts h
  · simp
  · simp [len_advance_head hidx.1 hidx.2 hfree]
  · simp [hov] at hon

/-- No whole command changes what context `k` has left, but the two on that context and a PUSH into a slot still to
come (R181). -/
theorem iterContents_of_exec_whole {k : CtxNum} {i : Instr} (h : exec i s = .next t) (hcreate : i ≠ .iterCreate k)
    (hnext : i ≠ .iterNext k)
    (hpush : (∃ v, i = .push v) →
      ∀ j < (iterAt s k).remaining, ((iterAt s k).cursor + j) % s.cfg.capacity ≠ s.head) :
    iterContents t k = iterContents s k := by
  obtain ⟨hslots, -⟩ := onlyTheseCommandsChangeState.1 s t i h
  rw [iterContents_eq, iterContents_eq, iterAt_of_exec h hcreate hnext, exec_cfg h]
  by_cases hi : ∃ v, i = .push v
  · have hrange := hpush hi
    obtain ⟨v, rfl⟩ := hi
    obtain heq | heq := slots_of_push_whole hts h
    · rw [heq]
    · rw [heq, leftToYield_setSlot _ _ hrange]
  · rw [show t.slots = s.slots from by_contra fun hne => hi (hslots hne)]

end Whole

/-- ITER_CREATE when THREAD_SAFE = 0 captures the logical contents (R172). -/
theorem iterContents_of_iterCreate {s t : State} {k : CtxNum} (hinv : Inv s) (hts : s.cfg.threadSafe = false)
    (hk : k.toNat < s.cfg.nIter) (h : exec (.iterCreate k) s = .next t) : iterContents t k = contents s := by
  have hs := ((inv_iff s).1 hinv).1
  have ha : admitted s.cfg (activePort s) (.iterCreate k) = true :=
    admitted_iterator (.inl rfl) hk (by simp [activePort_of_whole hts])
  rw [exec_iterCreate ha, loadBoth_whole hts] at h
  cases h
  rw [iterContents_respond_setIter _ _ (by rwa [hs.contexts.1]), leftToYield_logical]

/-- ITER_NEXT of a context with something left answers the first of it and leaves the rest (R177, R182). -/
theorem iterContents_of_iterNext {s t : State} {k : CtxNum} (hinv : Inv s) (hk : k.toNat < s.cfg.nIter)
    (hp : activePort s ≠ .prod) (hrem : (iterAt s k).remaining ≠ 0) (h : exec (.iterNext k) s = .next t) :
    ∃ v, iterContents s k = some v :: iterContents t k ∧
      (portAt t (activePort s)).rsp = { status := .ok, data := v } := by
  have hs := ((inv_iff s).1 hinv).1
  obtain ⟨hcur, v, hv⟩ := hs.exists_next hrem
  rw [exec_iterNext_value (admitted_iterator (.inr rfl) hk hp) hrem hcur hv] at h
  cases h
  refine ⟨v, ?_, rsp_respond (setIter s k _) _⟩
  rw [iterContents_respond_setIter _ _ (by rwa [hs.contexts.1]), iterContents_eq, leftToYield_eq_cons _ hrem hcur, hv]

/-- Settles O55: what ITER_CREATE captures, what ITER_NEXT takes from it, and what other commands leave of it. -/
theorem iteratorYieldsItsRange : Obligations.IteratorYieldsItsRange :=
  ⟨fun _ _ _ => iterContents_of_iterCreate, fun _ _ _ hinv _ => iterContents_of_iterNext hinv,
    fun _ _ _ _ hts => iterContents_of_exec_whole hts⟩

/-- Settles O56: `head` is no slot of the logical range, so no PUSH writes into the iterator's range; and without POP,
CLEAR and overwriting `tail` stays and the logical range only grows. -/
theorem snapshotSurvivesPushesWithoutPop : Obligations.SnapshotSurvivesPushesWithoutPop := by
  intro s t k i d hinv hts hov _ hcur hle hpop hclear hcreate hnext h
  have hidx := ((inv_iff s).1 hinv).1.indices
  obtain ⟨-, hhead, htail, -⟩ := onlyTheseCommandsChangeState.1 s t i h
  have hctx := iterAt_of_exec h hcreate hnext
  have htail' : t.tail = s.tail := by_contra fun hne => by simpa [hpop, hclear, hov] using htail hne
  have hlen : len s.cfg s.head s.tail ≤ len t.cfg t.head t.tail := by
    by_cases hi : ∃ v, i = .push v
    · obtain ⟨v, rfl⟩ := hi
      exact len_le_of_push_whole hts hidx hov h
    · have hhead' : t.head = s.head := by_contra fun hne => (hhead hne).elim hclear hi
      rw [exec_cfg h, hhead', htail']
  refine ⟨iterContents_of_exec_whole hts h hcreate hnext fun _ j hj => ?_, ?_, ?_⟩
  · rw [hcur, Nat.mod_add_mod, Nat.add_assoc]
    exact logical_slot_ne_head hidx.1 hidx.2 (by omega)
  · rw [hctx, hcur, htail', exec_cfg h]
  · rw [hctx]
    exact hle.trans hlen

end Sys2Proof.Machine
end

section
/-! PROOFS. What stands in the place of exceptions (60_exceptions.md): the refused configurations, the model fault record
and its two causes, and a command that fails. -/

namespace Sys2Proof.Machine

/-! ### Refused configurations (R210) -/

/-- Legality, written out (R4, R5, R8, R9). -/
theorem badConfig_eq_none_iff (cfg : Config) :
    badConfig cfg = none ↔ 1 ≤ cfg.capacity ∧ 1 ≤ cfg.dataWidth ∧ (1 ≤ cfg.nIter ∧ cfg.nIter ≤ 16) ∧
      ¬(cfg.threadSafe = true ∧ cfg.overwriteOnFull = true) := by
  have hiter : ¬(cfg.nIter = 0 ∨ 16 < cfg.nIter) ↔ 1 ≤ cfg.nIter ∧ cfg.nIter ≤ 16 := by omega
  simp only [badConfig, ite_eq_iff, reduceCtorEq, and_false, false_or, and_true, hiter, Nat.one_le_iff_ne_zero]

/-- Settles O3: the refusal is the first thing a step looks for. -/
theorem illegalConfigurationHasNoStep : Obligations.IllegalConfigurationHasNoStep := fun s =>
  ⟨badConfig_eq_none_iff s.cfg, fun b hb => by rw [step_eq_takeStep, takeStep, hb]⟩

/-! ### The model fault record (R209) -/

theorem recordFault_of_recorded {s : State} {f : ModelFault} (g : ModelFault) (h : s.modelFault = some f) :
    recordFault g s = s := by rw [recordFault, h]

/-- No state operation clears a record, or replaces it. -/
theorem keptByOps_recorded (f : ModelFault) : KeptByOps fun s => s.modelFault = some f where
  respond _ _ h := (respond_modelFault ..).trans h
  continueWith _ _ h := (continueWith_modelFault ..).trans h
  recordFault _ g h := by rwa [recordFault_of_recorded g h]
  storeIdx _ _ _ h := (storeIdx_modelFault ..).trans h
  setIter _ _ _ h := h
  setSlot _ _ _ h := h

/-- With a fault recorded, every action but a reset is the fault. -/
theorem step_of_recorded {s : State} {f : ModelFault} (hlegal : Legal s) (hf : s.modelFault = some f)
    (hr : (nextInput s).rst = false) : step s = .fault (.modelFault f) := by
  rw [step_eq_takeStep, takeStep, hlegal, hf]
  cases ha : selectAction (nextInput s) (edge s) with
  | reset => simp [selectAction_eq_reset_iff.1 ha] at hr
  | idle | accept c | run c => rfl

/-- Settles O23: of what `step_next` lists only the reset starts from a recorded fault, and every command keeps what every
state operation keeps. -/
theorem modelFaultIsSticky : Obligations.ModelFaultIsSticky := by
  refine ⟨fun s f => step_of_recorded, fun s t f hf h => ?_, fun s t i f hf h => (keptByOps_recorded f).exec hf i t h⟩
  obtain ⟨-, ⟨ha, rfl⟩ | ⟨hsafe, -⟩⟩ := step_next h
  · exact ⟨hf, selectAction_eq_reset_iff.1 ha⟩
  · simp [hsafe] at hf

/-! ### What a command yields, and why -/

/-- The causes a model fault can have (R209, R14, R142). -/
inductive FaultCause (s : State) : Instr → ModelFault → Prop where
  /-- CLEAR meets the other port in flight -/
  | race (hts : s.cfg.threadSafe = true) (hother : inFlight (portAt s (otherPort (activePort s))) = true) :
    FaultCause s .clear .clearRace
  /-- a whole POP or PEEK -/
  | readWhole {i : Instr} (hi : i = .pop ∨ i = .peek) (hts : s.cfg.threadSafe = false) (hne : s.tail ≠ s.head)
    (hslot : slotAt s.slots s.tail = none) : FaultCause s i .unwrittenSlotRead
  /-- s3 of POP or PEEK -/
  | readMicro {i : Instr} {c : Command} {l : Locals} {a : Nat} (hi : i = .pop ∨ i = .peek) (hm : AtMicro s c 3 l)
    (hl : l.t = some a) (hslot : slotAt s.slots a = none) : FaultCause s i .unwrittenSlotRead
  /-- ITER_NEXT -/
  | readIter (k : CtxNum) (hrem : (iterAt s k).remaining ≠ 0) (hslot : slotAt s.slots (iterAt s k).cursor = none) :
    FaultCause s (.iterNext k) .unwrittenSlotRead

/-- The next states of the command `i`, by what tells a failure and a fault from the rest: where the buffer or a context
changed, the answer is OK or the micro-step is PUSH's s3, and a fault has its cause. -/
inductive Yields (s : State) (i : Instr) : State → Prop where
  | answer (r : Response) : Yields s i (respond r s)
  | effect {u : State} (r : Response) (hok : r.status = .ok) (hu : SameOutside s u) : Yields s i (respond r u)
  | goOn (l : Locals) : Yields s i (continueWith l s)
  | write {v : Nat} {c : Command} {l : Locals} (m : Memory) (hi : i = .push v) (hm : AtMicro s c 3 l) :
    Yields s i (continueWith l { s with slots := m })
  | fault {f : ModelFault} (hcause : FaultCause s i f) : Yields s i (recordFault f s)

section Operations
variable {s : State} {i : Instr}

theorem yields_whenAdmitted {k : Result} (h : NextHas (Yields s i) k) :
    NextHas (Yields s i) (whenAdmitted i s k) := fun t ht => by
  obtain ⟨-, hk⟩ | ⟨-, rfl⟩ := whenAdmitted_next ht
  · exact h t hk
  · exact .answer _

theorem yields_memRead {a : Nat} {k : Nat → Result}
    (hcause : slotAt s.slots a = none → FaultCause s i .unwrittenSlotRead) (h : ∀ v, NextHas (Yields s i) (k v)) :
    NextHas (Yields s i) (memRead a s k) := fun t ht => by
  obtain ⟨v, -, -, hk⟩ | ⟨hslot, rfl⟩ := memRead_next ht
  · exact h v t hk
  · exact .fault (hcause hslot)

theorem yields_loadBoth {fin : Nat → Nat → State → State} (h : ∀ a b, Yields s i (fin a b s)) :
    NextHas (Yields s i) (loadBoth s fin) := fun t ht => by
  obtain ⟨-, rfl⟩ | ⟨c, l, -, ⟨-, rfl⟩ | ⟨h', -, -, rfl⟩⟩ := loadBoth_next ht
  · exact h ..
  · exact .goOn _
  · exact h ..

theorem yields_answerOrGoOn (b : Prop) [Decidable b] (r : Response) (l : Locals) :
    NextHas (Yields s i) (if b then .next (respond r s) else .next (continueWith l s)) := by
  split
  · exact nextHas_next (.answer r)
  · exact nextHas_next (.goOn l)

theorem yields_ok {u : State} {r : Response} (hok : r.status = .ok) (hu : SameOutside s u) :
    NextHas (Yields s i) (.next (respond r u)) := nextHas_next (.effect r hok hu)

/-- A micro-step, with the phase it is taken in. -/
theorem nextHas_microStep_busy {P : State → Prop} {k : Nat → Locals → Result}
    (h : ∀ c j l, (portAt s (activePort s)).phase = .busy c j l → NextHas P (k j l)) :
    NextHas P (microStep s k) := fun t ht => by
  obtain ⟨c, j, l, hp, hk⟩ := microStep_next ht
  exact h c j l hp t hk

/-- The whole POP and PEEK: an answer if the buffer is empty, else a read of the slot of `tail` (R127, R133). -/
theorem yields_readWhole (hi : i = .pop ∨ i = .peek) (hts : s.cfg.threadSafe = false) (r : Response) {k : Nat → Result}
    (h : ∀ v, NextHas (Yields s i) (k v)) :
    NextHas (Yields s i) (if s.tail = s.head then .next (respond r s) else memRead s.tail s k) := by
  split
  · exact nextHas_next (.answer r)
  · next hne => exact yields_memRead (.readWhole hi hts hne) h

/-- s3 of POP and PEEK: a read of the slot that s2 has found (R128, R134). -/
theorem yields_readMicro (hi : i = .pop ∨ i = .peek) {c : Command} {l : Locals} (hm : AtMicro s c 3 l) {k : Nat → Result}
    (h : ∀ v, NextHas (Yields s i) (k v)) : NextHas (Yields s i) (withLocal l.t fun a => memRead a s k) := fun t ht => by
  obtain ⟨a, hl, hk⟩ := withLocal_next ht
  exact yields_memRead (.readMicro hi hm hl) h t hk

/-! ### Each command -/

theorem yields_pushWhole (v : Nat) : NextHas (Yields s (.push v)) (pushWhole v s) := by
  have hs := SameOutside.refl s
  unfold pushWhole
  dsimp only
  split
  · split
    · exact nextHas_memWrite (yields_ok rfl (((hs.storeIdx ..).withSlots _).storeIdx ..))
    · exact nextHas_next (.answer _)
  · exact nextHas_memWrite (yields_ok rfl ((hs.withSlots _).storeIdx ..))

theorem yields_pushMicro (v : Nat) (hts : s.cfg.threadSafe = true) : NextHas (Yields s (.push v)) (pushMicro v s) := by
  refine nextHas_microStep_busy fun c j l hp => ?_
  split
  · exact nextHas_next (.goOn _)
  · exact nextHas_withLocal fun n => yields_answerOrGoOn _ _ _
  · exact nextHas_withLocal fun h => nextHas_memWrite (nextHas_next (.write _ rfl ⟨hts, hp⟩))
  · exact nextHas_withLocal fun n => yields_ok rfl ((SameOutside.refl s).storeIdx ..)
  · exact nextHas_refused _

theorem yields_popWhole (hts : s.cfg.threadSafe = false) : NextHas (Yields s .pop) (popWhole s) :=
  yields_readWhole (.inl rfl) hts _ fun _ => yields_ok rfl ((SameOutside.refl s).storeIdx ..)

theorem yields_popMicro (hts : s.cfg.threadSafe = true) : NextHas (Yields s .pop) (popMicro s) := by
  refine nextHas_microStep_busy fun c j l hp => ?_
  split
  · exact nextHas_next (.goOn _)
  · exact nextHas_withLocal fun h => yields_answerOrGoOn _ _ _
  · exact yields_readMicro (.inl rfl) ⟨hts, hp⟩ fun v => nextHas_next (.goOn _)
  · exact nextHas_withLocal fun t => nextHas_withLocal fun v => yields_ok rfl ((SameOutside.refl s).storeIdx ..)
  · exact nextHas_refused _

theorem yields_peekWhole (hts : s.cfg.threadSafe = false) : NextHas (Yields s .peek) (peekWhole s) :=
  yields_readWhole (.inr rfl) hts _ fun _ => nextHas_next (.answer _)

theorem yields_peekMicro (hts : s.cfg.threadSafe = true) : NextHas (Yields s .peek) (peekMicro s) := by
  refine nextHas_microStep_busy fun c j l hp => ?_
  split
  · exact nextHas_next (.goOn _)
  · exact nextHas_withLocal fun h => yields_answerOrGoOn _ _ _
  · exact yields_readMicro (.inr rfl) ⟨hts, hp⟩ fun v => nextHas_next (.answer _)
  · exact nextHas_refused _

/-- What a command yields, in every state. -/
theorem exec_yields {t : State} (h : exec i s = .next t) : Yields s i t := by
  suffices NextHas (Yields s i) (exec i s) from this t h
  cases i with
  | nop => exact yields_whenAdmitted (nextHas_next (.answer _))
  | push v =>
    refine yields_whenAdmitted ?_
    split
    · next hts => exact yields_pushMicro v hts
    · exact yields_pushWhole v
  | pop =>
    refine yields_whenAdmitted ?_
    split
    · next hts => exact yields_popMicro hts
    · next hts => exact yields_popWhole (Bool.eq_false_iff.2 hts)
  | peek =>
    refine yields_whenAdmitted ?_
    split
    · next hts => exact yields_peekMicro hts
    · next hts => exact yields_peekWhole (Bool.eq_false_iff.2 hts)
  | clear =>
    rw [exec_clear_eq]
    split
    · next hrace =>
      obtain ⟨hts, hother⟩ := Bool.and_eq_true_iff.1 hrace
      exact nextHas_next (.fault (.race hts hother))
    · exact yields_ok rfl (sameOutside_clearIndices s)
  | isEmpty | isFull | len =>
    simp only [exec, execIsEmpty, execIsFull, execLen]
    exact yields_whenAdmitted (yields_loadBoth fun _ _ => .answer _)
  | iterCreate k =>
    exact yields_whenAdmitted (yields_loadBoth fun _ _ => .effect _ rfl (sameOutside_setIter ..))
  | iterNext k =>
    refine yields_whenAdmitted ?_
    split
    · exact nextHas_next (.answer _)
    · next hrem => exact yields_memRead (.readIter k hrem) fun v => yields_ok rfl (sameOutside_setIter ..)

end Operations

/-! ### The causes of a fault, and what a failure leaves -/

section Claims
variable {s t : State} {i : Instr} (h : Yields s i t)
include h

/-- A fault recorded where none was has its cause (R209). -/
theorem Yields.faultCause {f : ModelFault} (hsafe : Safe s) (hf : t.modelFault = some f) : FaultCause s i f := by
  cases h with
  | answer | goOn | write => simp [hsafe] at hf
  | effect r _ hu =>
    obtain ⟨-, hrec, -⟩ := hu.rest
    simp [hrec, hsafe] at hf
  | fault hcause =>
    rw [recordFault_of_safe _ hsafe] at hf
    cases hf
    exact hcause

/-- Where the buffer or a context changed, the command answered OK, or performed PUSH's s3. -/
theorem Yields.sameBuffer_or : SameBuffer s t ∨ (∃ r, r.status = .ok ∧ Answers r s t) ∨
    ∃ c l v, AtMicro s c 3 l ∧ i = .push v ∧ GoesOn c 3 l s t := by
  cases h with
  | answer r => exact .inl (sameBlock_respond s r).sameBuffer
  | goOn l => exact .inl (sameBlock_continueWith s l).sameBuffer
  | fault => exact .inl (sameBlock_recordFault s _).sameBuffer
  | effect r hok hu => exact .inr (.inl ⟨r, hok, hu.answers r⟩)
  | @write v c l m hi hm => exact .inr (.inr ⟨c, l, v, hm, hi, ((SameOutside.refl s).withSlots m).goesOn l hm.2⟩)

end Claims

/-- Settles O24: the causes are those of `FaultCause`. -/
theorem modelFaultsHaveTwoCauses : Obligations.ModelFaultsHaveTwoCauses := by
  intro s t i f hsafe h hf
  cases (exec_yields h).faultCause hsafe hf with
  | race hts hother => exact .inl ⟨rfl, rfl, hts, (inFlight_eq_true_iff _).1 hother⟩
  | readWhole hi hts hne hslot => exact .inr ⟨rfl, .inl ⟨hi, hts, hne, hslot⟩⟩
  | readMicro hi hm hl hslot => exact .inr ⟨rfl, .inr (.inl ⟨hi, _, _, _, hm, hl, hslot⟩)⟩
  | readIter k hrem hslot => exact .inr ⟨rfl, .inr (.inr ⟨k, rfl, hrem, hslot⟩)⟩

/-- PUSH's s4 answers OK (R122). -/
theorem push_s4_answers_ok {s t : State} {c : Command} {l : Locals} {v : Nat} (hturn : s.turn = .producer)
    (hm : AtMicro s c 4 l) (h : exec (.push v) s = .next t) : Answers { status := .ok } s t := by
  obtain ⟨hts, hp⟩ := hm
  rw [exec_push_of_producer hts hturn, pushMicro, microStep_busy _ hp] at h
  obtain ⟨n, -, h⟩ := withLocal_next h
  cases h
  exact ((SameOutside.refl s).storeIdx ..).answers _

/-- Settles O47: from what a command changes (`Yields.sameBuffer_or`), by the log and the phase of the port that moved. -/
theorem failedCommandHasNoEffect : Obligations.FailedCommandHasNoEffect := by
  refine ⟨fun s t i r h hlog hr => ?_, fun s t i c j l l' hm h hphase hne => ?_, fun s t c l v r hturn hm h hlog => ?_⟩
  · obtain hsame | ⟨r', hok, hport, -⟩ | ⟨c, l, v, -, -, hport, -⟩ := (exec_yields h).sameBuffer_or
    · exact hsame
    · obtain rfl : r' = r := by simpa [hport] using hlog
      exact absurd hok hr
    · simp [hport] at hlog
  · obtain hsame | ⟨r, -, hport, -⟩ | ⟨c', l₀, v, hm', hi, -⟩ := (exec_yields h).sameBuffer_or
    · exact absurd hsame hne
    · simp [hport] at hphase
    · obtain ⟨-, rfl, -⟩ : c = c' ∧ j = 3 ∧ l = l₀ := by simpa [hm.2] using hm'.2
      exact ⟨rfl, v, hi⟩
  · obtain ⟨hport, -⟩ := push_s4_answers_ok hturn hm h
    have hact : activePort s = .prod := by rw [activePort_of_threadSafe hm.1, hturn]; rfl
    rw [hact] at hport
    obtain rfl : r = { status := .ok } := by simpa [hport] using hlog.symm
    rfl

end Sys2Proof.Machine
end

section
/-! PROOFS. A step with `rst = 1` (R231). -/

namespace Sys2Proof.Machine

/-- In a legal configuration a step with `rst = 1` is the reset, in the state after the edge, whatever the ports hold or
are given, and with a model fault recorded too (R208, R231). -/
theorem step_of_reset {s : State} (hlegal : Legal s) (hr : (nextInput s).rst = true) :
    step s = .next (resetBlock (edge s)) := by
  have ha : selectAction (nextInput s) (edge s) = .reset := selectAction_eq_reset_iff.2 hr
  simp [step_eq_takeStep, takeStep, hlegal, ha]

/-- A reset leaves no trace of a port's response pulse, and keeps its log: the edge before it does not show. -/
theorem portAt_resetBlock_edge (s : State) (p : PortId) : portAt (resetBlock (edge s)) p = resetPort (portAt s p) := by
  rw [portAt_resetBlock, portAt_edge]
  rfl

/-- Settles O21: the step is the reset (`step_of_reset`), and all that it does not take from the state is as in
ResetState. -/
theorem resetStepWinsOverEverything : Obligations.ResetStepWinsOverEverything := by
  intro s x rest hlegal hin hr
  have hstep : step s = .next (resetBlock (edge s)) := step_of_reset hlegal (by rw [nextInput_eq_head hin, hr])
  have hinputs : (resetBlock (edge s)).inputs = rest := by
    show s.inputs.tail = rest
    rw [hin, List.tail_cons]
  exact ⟨resetBlock (edge s), hstep, rfl, rfl, rfl, fun _ => rfl, List.length_replicate, iterAt_resetOf s.cfg,
    portAt_resetBlock_edge s, rfl, hinputs⟩

end Sys2Proof.Machine
end
